-- ==== Sys2Proof/Word.lean ====
section
/-! DEFINITION. The two data types of the wire (spec/00_scope.md R7): a Byte is 8 bits, a Word is 16 bits, both
unsigned. -/

namespace Sys2Proof

/-- R7: an unsigned 8-bit value. -/
abbrev Byte := BitVec 8

/-- R7: an unsigned 16-bit value, the atomic unit of parameters and responses. -/
abbrev Word := BitVec 16

end Sys2Proof
end

