-- ==== Sys2Proof/Syntax.lean ====
section
/-! DEFINITION. The instructions: one constructor of `Instr` for each row of spec/opcode_table.json, in the table's
order. The first eight are the wire commands of spec/30_encoding.md R59, the last nine the host operations of R65.
A wire command has the fields of its row's bit pattern: `p`, `q` the parameter words in wire order, `c`, `d` the
checksum bytes that follow them (R57). A host operation has no field: its operands stand in host registers (R62). -/

namespace Sys2Proof

/-- The eight rows of the wire command table (R59). -/
inductive WireCmd where
  | serialId | featureSet | init | getBaseline | setBaseline | measure | rawSignals | setHumidity
  deriving DecidableEq, Repr

/-- One row of the wire command table (R59): the opcode, how many parameter words the command has, how many response
words it expects and its settle delay in milliseconds (0 where the source has a dash). -/
structure CmdRow where
  opcode : Word
  params : BitVec 2
  words  : BitVec 2
  settle : BitVec 5
  deriving DecidableEq, Repr

/-- The rows of spec/opcode_table.json. -/
inductive Instr where
  | cmdSerialId
  | cmdFeatureSet
  | cmdInit
  | cmdGetBaseline
  | cmdSetBaseline (p : Word) (c : Byte) (q : Word) (d : Byte)
  | cmdMeasure
  | cmdRawSignals
  | cmdSetHumidity (p : Word) (c : Byte)
  | initialise
  | initialiseBl
  | getSerialId
  | getFeatureSet
  | measure
  | getBaseline
  | setBaseline
  | getRawSignals
  | setHumidity
  deriving DecidableEq, Repr

/-- The instruction is one of the nine the host selects (R65); the others are steps inside them (R67). -/
def Instr.isHostOp : Instr → Bool
  | .cmdSerialId | .cmdFeatureSet | .cmdInit | .cmdGetBaseline | .cmdSetBaseline _ _ _ _ | .cmdMeasure
  | .cmdRawSignals | .cmdSetHumidity _ _ => false
  | .initialise | .initialiseBl | .getSerialId | .getFeatureSet | .measure | .getBaseline | .setBaseline
  | .getRawSignals | .setHumidity => true

end Sys2Proof
end

