-- ==== Sys2Proof/Machine/Params.lean ====
section
/-! DEFINITION. The parameters that spec/00_scope.md R6 fixes, the wire command table (spec/30_encoding.md R59), the
host select codes (R65), and the splitting of a Word into bytes (spec/20_memory.md R39). -/

namespace Sys2Proof.Machine

/-- `CRC_POLY` (R6). -/
def crcPoly : Byte := 0x31

/-- `CRC_INIT` (R6). -/
def crcInit : Byte := 0xFF

/-- `SENTINEL_ECO2` (R6): 400 ppm. -/
def sentinelEco2 : Word := 400

/-- `POLL_MAX` (R6). -/
def pollMax : BitVec 5 := 20

/-- `POLL_PERIOD_MS` (R6). -/
def pollPeriodMs : Nat := 1000

/-- R39: the first byte of a Word on the wire. -/
def hiByte (w : Word) : Byte := w.extractLsb' 8 8

/-- R39: the second byte of a Word on the wire. -/
def loByte (w : Word) : Byte := w.extractLsb' 0 8

/-- R39: the Word of two bytes, the first one more significant. -/
def wordOf (b0 b1 : Byte) : Word := b0 ++ b1

/-- The wire command table (R59). -/
def cmdRow : WireCmd → CmdRow
  | .serialId    => ⟨0x3682, 0, 3, 1⟩
  | .featureSet  => ⟨0x202F, 0, 1, 2⟩
  | .init        => ⟨0x2003, 0, 0, 0⟩
  | .getBaseline => ⟨0x2015, 0, 2, 10⟩
  | .setBaseline => ⟨0x201E, 2, 0, 0⟩
  | .measure     => ⟨0x2008, 0, 2, 22⟩
  | .rawSignals  => ⟨0x2050, 0, 2, 25⟩
  | .setHumidity => ⟨0x2061, 1, 0, 0⟩

/-- R60: the row is found by the opcode; R59, R61: there are no other opcodes. -/
def cmdOfOpcode (opc : Word) : Option WireCmd :=
  if opc = 0x3682 then some .serialId
  else if opc = 0x202F then some .featureSet
  else if opc = 0x2003 then some .init
  else if opc = 0x2015 then some .getBaseline
  else if opc = 0x201E then some .setBaseline
  else if opc = 0x2008 then some .measure
  else if opc = 0x2050 then some .rawSignals
  else if opc = 0x2061 then some .setHumidity
  else none

/-- R45, R60: the length in bytes of the write of a command. -/
def writeLength (cmd : WireCmd) : Nat := 2 + 3 * (cmdRow cmd).params.toNat

/-- R45, R60: the length in bytes of the read of a command's response. -/
def readLength (cmd : WireCmd) : Nat := 3 * (cmdRow cmd).words.toNat

end Sys2Proof.Machine
end

