-- ==== Sys2Proof/Machine/Checksum.lean ====
section
/-! DEFINITION. The Checksum Unit (spec/40_checksum.md): CHECKSUM and VERIFY. Both take their Bytes as arguments, so an
input of another length (R76) cannot be presented. -/

namespace Sys2Proof.Machine

/-- R72: the bit step of the accumulator; bit 7 is tested before the shift, and the bit shifted out is dropped. -/
def crcStep (a : Byte) : Byte :=
  if a.getLsbD 7 then (a <<< 1) ^^^ crcPoly else a <<< 1

/-- R78: eight bit steps, the table `T` of the equivalent table form. -/
def crcTable (x : Byte) : Byte :=
  crcStep (crcStep (crcStep (crcStep (crcStep (crcStep (crcStep (crcStep x)))))))

/-- R73: the byte step. The whole byte is XORed in, then the bit step is applied 8 times. -/
def crcFeed (a b : Byte) : Byte := crcTable (a ^^^ b)

/-- R74: CHECKSUM. `b0` is the first byte on the wire. -/
def checksum (b0 b1 : Byte) : Byte := crcFeed (crcFeed crcInit b0) b1

/-- R75: the bit step on an accumulator that grows without bound; bit 7 is still the one tested. -/
def crcStepWide (a : Nat) : Nat :=
  if a.testBit 7 then (a <<< 1) ^^^ crcPoly.toNat else a <<< 1

/-- R75: one byte into the growing accumulator. -/
def crcFeedWide (a : Nat) (b : Byte) : Nat :=
  crcStepWide (crcStepWide (crcStepWide (crcStepWide (crcStepWide (crcStepWide (crcStepWide (crcStepWide
    (a ^^^ b.toNat))))))))

/-- R75: the source's form of CHECKSUM, which masks to 8 bits once, after all bytes. -/
def checksumMaskedOnce (b0 b1 : Byte) : Byte :=
  BitVec.ofNat 8 (crcFeedWide (crcFeedWide crcInit.toNat b0) b1)

/-- R80: VERIFY. -/
def verify (b0 b1 c : Byte) : Bool := checksum b0 b1 == c

/-- The checksum that follows a Word on the wire (R56): of its two bytes, high byte first. -/
def wordChecksum (w : Word) : Byte := checksum (hiByte w) (loByte w)

/-- R81: a Byte with one bit flipped. -/
def flipBit (b : Byte) (i : Fin 8) : Byte := b ^^^ (1#8 <<< i.val)

end Sys2Proof.Machine
end

