-- ==== Sys2Proof/Machine/Codec.lean ====
section
/-! DEFINITION. The Frame Codec (spec/41_frame_codec.md): ENCODE and DECODE as functions of words and bytes, and the
values that the working registers CRC and BLK are left with. -/

namespace Sys2Proof.Machine

/-- R56, R84: one Word as a block of three bytes. -/
def block (w : Word) : List Byte := [hiByte w, loByte w, wordChecksum w]

/-- R85, R87: ENCODE. Total; the empty sequence gives no byte. -/
def encodeFrame : List Word → List Byte
  | [] => []
  | w :: ws => block w ++ encodeFrame ws

/-- How DECODE can end without words: the error of R89 with the payload of R90 (the data bytes and the checksum byte
of the block, as received), or the broken length precondition of R91, which is no error code of the hardware. -/
inductive CodecFailure where
  | invalidChecksum (data : Word) (crc : Byte)
  | badLength
  deriving DecidableEq, Repr

/-- R89: the blocks in order, failing at the first one that does not verify; the words in input order. -/
def decodeBlocks : List Byte → Except CodecFailure (List Word)
  | b0 :: b1 :: c :: rest =>
    if verify b0 b1 c then
      match decodeBlocks rest with
      | .ok ws => .ok (wordOf b0 b1 :: ws)
      | .error e => .error e
    else .error (.invalidChecksum (wordOf b0 b1) c)
  | [] => .ok []
  | _ => .error .badLength

/-- R89, R91: DECODE of `frame` with expected count `n`. A frame of another length than `3 * n` is outside the
function's domain: no words and no InvalidChecksum. -/
def decodeFrame (frame : List Byte) (n : Nat) : Except CodecFailure (List Word) :=
  if frame.length = 3 * n then decodeBlocks frame else .error .badLength

/-- R92: the index of the last block DECODE looks at: the first bad one, or the last of all. -/
def lastExamined : List Byte → Nat
  | b0 :: b1 :: c :: rest => if verify b0 b1 c && !rest.isEmpty then lastExamined rest + 1 else 0
  | _ => 0

/-- The accumulator CRC after DECODE (R28, R74): the checksum computed for the last block examined, `a` if there was
none (log 15). -/
def crcAfterDecode : List Byte → Byte → Byte
  | b0 :: b1 :: c :: rest, _ =>
    if verify b0 b1 c then crcAfterDecode rest (checksum b0 b1) else checksum b0 b1
  | _, a => a

/-- The accumulator CRC after ENCODE (R28, R86): the checksum of the last word, `a` if there was none (log 15). -/
def crcAfterEncode : List Word → Byte → Byte
  | [], a => a
  | w :: ws, _ => crcAfterEncode ws (wordChecksum w)

end Sys2Proof.Machine
end

