-- ==== Sys2Proof/WellFormed.lean ====
section
/-! DEFINITION. When an instruction is well formed: a wire command's checksum bytes are those of its parameter words
(spec/00_scope.md R8, spec/30_encoding.md R57). Every parameter word is legal (spec/41_frame_codec.md R85), and a host
operation has no field to check. -/

namespace Sys2Proof

/-- R8: "every 3-byte block's checksum must match the 2 preceding bytes or the frame is invalid". -/
def Instr.wellFormed : Instr → Bool
  | .cmdSetBaseline p c q d => Machine.wordChecksum p == c && Machine.wordChecksum q == d
  | .cmdSetHumidity p c => Machine.wordChecksum p == c
  | .cmdSerialId | .cmdFeatureSet | .cmdInit | .cmdGetBaseline | .cmdMeasure | .cmdRawSignals => true
  | .initialise | .initialiseBl | .getSerialId | .getFeatureSet | .measure | .getBaseline | .setBaseline
  | .getRawSignals | .setHumidity => true

end Sys2Proof
end

