-- ==== Sys2Proof/Decode.lean ====
section
/-! DEFINITION. The decoder and the encoder, from spec/30_encoding.md. The bytes of a host operation are one byte, the
value of OPSEL (R65). The bytes of a wire command are the bytes of its write transaction (R57). The length of a command
is decided by its opcode (R60). -/

namespace Sys2Proof
open Machine

/-- Why bytes are no instruction. -/
inductive DecodeError where
  /-- no byte at all -/
  | empty
  /-- R66: select codes 9 to 15 are reserved -/
  | reservedSelect
  /-- R15: OPSEL has 4 bits, so a larger value is no select code -/
  | selectTooWide
  /-- R59, R61: the opcode is no row of the wire command table -/
  | unknownOpcode
  /-- R60: the number of bytes is not the command's -/
  | wrongLength
  /-- R8: a block's checksum does not match its two data bytes -/
  | wrongChecksum
  deriving DecidableEq, Repr

/-- R65, R66: the host operation of a select code. -/
def decodeSelect (code : BitVec 4) : Except DecodeError Instr :=
  match code.toNat with
  | 0 => .ok .initialise
  | 1 => .ok .initialiseBl
  | 2 => .ok .getSerialId
  | 3 => .ok .getFeatureSet
  | 4 => .ok .measure
  | 5 => .ok .getBaseline
  | 6 => .ok .setBaseline
  | 7 => .ok .getRawSignals
  | 8 => .ok .setHumidity
  | _ => .error .reservedSelect

/-- R57, R60: a command with its parameter bytes. -/
def decodeCommand (cmd : WireCmd) (params : List Byte) : Except DecodeError Instr :=
  match cmd, params with
  | .serialId, [] => .ok .cmdSerialId
  | .featureSet, [] => .ok .cmdFeatureSet
  | .init, [] => .ok .cmdInit
  | .getBaseline, [] => .ok .cmdGetBaseline
  | .measure, [] => .ok .cmdMeasure
  | .rawSignals, [] => .ok .cmdRawSignals
  | .setBaseline, [p1, p0, c, q1, q0, d] =>
    if verify p1 p0 c && verify q1 q0 d then .ok (.cmdSetBaseline (wordOf p1 p0) c (wordOf q1 q0) d)
    else .error .wrongChecksum
  | .setHumidity, [p1, p0, c] =>
    if verify p1 p0 c then .ok (.cmdSetHumidity (wordOf p1 p0) c) else .error .wrongChecksum
  | _, _ => .error .wrongLength

/-- The decoder, total on any bytes. One byte is a select code, more are a wire command, most significant byte of the
opcode first (spec/20_memory.md R40). -/
def decode : List Byte → Except DecodeError Instr
  | [] => .error .empty
  | [b] => if b.toNat < 16 then decodeSelect (b.setWidth 4) else .error .selectTooWide
  | o1 :: o0 :: params =>
    match cmdOfOpcode (wordOf o1 o0) with
    | some cmd => decodeCommand cmd params
    | none => .error .unknownOpcode

/-- R65: the select code of a host operation; `none` for a wire command, which has none (R67). -/
def selectCode : Instr → Option (BitVec 4)
  | .initialise => some 0
  | .initialiseBl => some 1
  | .getSerialId => some 2
  | .getFeatureSet => some 3
  | .measure => some 4
  | .getBaseline => some 5
  | .setBaseline => some 6
  | .getRawSignals => some 7
  | .setHumidity => some 8
  | .cmdSerialId | .cmdFeatureSet | .cmdInit | .cmdGetBaseline | .cmdSetBaseline _ _ _ _ | .cmdMeasure
  | .cmdRawSignals | .cmdSetHumidity _ _ => none

/-- R40: the two bytes of an opcode. -/
def opcodeBytes (opc : Word) : List Byte := [hiByte opc, loByte opc]

/-- The encoder: the bytes of an instruction, from the tables of R57, R59 and R65. -/
def encode : Instr → List Byte
  | .cmdSerialId => opcodeBytes 0x3682
  | .cmdFeatureSet => opcodeBytes 0x202F
  | .cmdInit => opcodeBytes 0x2003
  | .cmdGetBaseline => opcodeBytes 0x2015
  | .cmdSetBaseline p c q d => opcodeBytes 0x201E ++ [hiByte p, loByte p, c, hiByte q, loByte q, d]
  | .cmdMeasure => opcodeBytes 0x2008
  | .cmdRawSignals => opcodeBytes 0x2050
  | .cmdSetHumidity p c => opcodeBytes 0x2061 ++ [hiByte p, loByte p, c]
  | .initialise => [0]
  | .initialiseBl => [1]
  | .getSerialId => [2]
  | .getFeatureSet => [3]
  | .measure => [4]
  | .getBaseline => [5]
  | .setBaseline => [6]
  | .getRawSignals => [7]
  | .setHumidity => [8]

/-- The `k`-th parameter word among the bits of a table word: the opcode is bits 15 to 0, and each parameter takes 24
bits, its Word and then its checksum (log 9). -/
def tableParam (w k : Nat) : Word := BitVec.ofNat 16 (w >>> (16 + 24 * k))

/-- The checksum byte after the `k`-th parameter word. The table gives these bits no value of their own: where all of
them are zero the codec's checksum stands there (log 9). -/
def tableChecksum (w k : Nat) : Byte :=
  if BitVec.ofNat 8 (w >>> (32 + 24 * k)) = 0 then wordChecksum (tableParam w k)
  else BitVec.ofNat 8 (w >>> (32 + 24 * k))

/-- One parameter of a table word as its three bytes on the wire. -/
def tableBlock (w k : Nat) : List Byte :=
  [hiByte (tableParam w k), loByte (tableParam w k), tableChecksum w k]

/-- The bytes of the parameters of a table word whose opcode is `opc`. -/
def tableParams (opc : Word) (w : Nat) : List Byte :=
  match cmdOfOpcode opc with
  | some .setBaseline => tableBlock w 0 ++ tableBlock w 1
  | some .setHumidity => tableBlock w 0
  | _ => []

/-- An instruction of the opcode table, given as the bits of its first `nbits` bits, laid out as the bytes the hardware
has: one byte for a select code (a row of at most 8 bits), the bytes of the write for a wire command. Bits that the
instruction does not have must be zero. -/
def tableBytes (nbits w : Nat) : List Byte :=
  if w >>> nbits ≠ 0 then []
  else if nbits ≤ 8 then [BitVec.ofNat 8 w]
  else
    let opc : Word := BitVec.ofNat 16 w
    let bytes := opcodeBytes opc ++ tableParams opc w
    if w >>> (8 * bytes.length) = 0 then bytes else []

/-- The instruction the decoder reads from a word of spec/opcode_table.json. -/
def decodeTableWord (nbits w : Nat) : Option Instr :=
  match decode (tableBytes nbits w) with
  | .ok i => some i
  | .error _ => none

end Sys2Proof
end

