-- ==== Sys2Proof/Config.lean ====
section
/-! DEFINITION. The OPEN parameters of spec/00_scope.md R6. Each is a constant with no body: nothing can evaluate it,
so every theorem holds for every value (log 1). The parameters that R6 fixes stand in Machine/Params.lean. -/

namespace Sys2Proof.Config

/-- `ADDR_W` (R6, OPEN): the width of a peripheral address. -/
opaque addrW : Nat

/-- `PERIPH_ADDR` (R6, R21, OPEN): the bus address of the sensor. -/
opaque periphAddr : BitVec addrW

/-- `TICKS_PER_MS` less one (R6, OPEN): the parameter is a positive integer. -/
opaque ticksPerMsLessOne : Nat

/-- `TICKS_PER_MS` (R6): `clk` cycles in a millisecond, positive. -/
def ticksPerMs : Nat := ticksPerMsLessOne + 1

end Sys2Proof.Config
end

