-- ==== Sys2Proof/Machine/State.lean ====
section
/-! DEFINITION. The state of the block (spec/10_state.md), the events that the host, the transport and time bring to it,
the trace of what it did at its bus port and timer, the ways a step can stop, and the state after reset (R34). -/

namespace Sys2Proof.Machine

/-- R24: where in its sequence the block stands. The numbering of the values is not fixed by the spec. -/
inductive Phase where
  | idle | build | write | settle | read | decode | pollwait
  deriving DecidableEq, Repr

/-- Which transaction failed (R107): it is the payload of the error IO. -/
inductive Direction where
  | write | read
  deriving DecidableEq, Repr

/-- R125, R126: the error kinds with their payloads (R127). -/
inductive HwError where
  /-- code 1: the data bytes and the checksum byte of the first bad block, as received -/
  | invalidChecksum (data : Word) (crc : Byte)
  /-- code 2: the rejected humidity operand -/
  | domain (value : BitVec 32)
  /-- code 3: the transaction that failed -/
  | io (direction : Direction)
  /-- code 4: the reserved select code -/
  | illegalOp (code : BitVec 4)
  deriving DecidableEq, Repr

/-- R38: the response record of the bus port. The bytes mean something only for a read. -/
inductive BusResponse where
  | ok (rbytes : List Byte)
  | fail
  deriving DecidableEq, Repr

/-- R38: the request record of the bus port: kind, address, byte count, and the bytes of a write. -/
inductive BusRequest where
  | write (addr : BitVec Config.addrW) (bytes : List Byte)
  | read (addr : BitVec Config.addrW) (count : Nat)
  deriving DecidableEq, Repr

/-- One entry of the trace (R105): a write with its bytes and whether it completed `ok`, a wait of at least `ms`
milliseconds (R148), or a read of `count` bytes with the bytes that came, `none` when it failed. -/
inductive BusEvent where
  | write (addr : BitVec Config.addrW) (bytes : List Byte) (ok : Bool)
  | wait (ms : Nat)
  | read (addr : BitVec Config.addrW) (count : Nat) (result : Option (List Byte))
  deriving DecidableEq, Repr

/-- What the other agents of R11 can do to the block (log 3). -/
inductive Input where
  /-- the host writes a register of the bank by its number (R14) -/
  | hostWrite (number : Nat) (value : BitVec 32)
  /-- the host pulses `start` (R25, R26) -/
  | start
  /-- a clock edge with `rst` = 1 (R145); when it withdraws a bus request, `carriedOut` says whether the request
  had been carried out all the same, and with which answer (93_implementation_defined.md U2, log 17) -/
  | rst (carriedOut : Option BusResponse)
  /-- the transport completes the outstanding request (R37, R38) -/
  | bus (response : BusResponse)
  /-- `cycles` cycles of `clk` pass (R31, log 11) -/
  | clk (cycles : Nat)
  /-- time lets the wait in progress end (R11, R148, log 11) -/
  | waitEnd
  deriving DecidableEq, Repr

/-- The state of the block: the host-visible registers, the sequencer, and two fields of the model's own. -/
structure State where
  /-- R15 -/
  opsel : BitVec 4
  /-- `ARG[0]`, co2eq (R16) -/
  arg0 : Word
  /-- `ARG[1]`, tvoc (R16) -/
  arg1 : Word
  /-- R17: two's complement, 8 fractional bits -/
  hum : BitVec 32
  /-- STATUS bit 0 (R22) -/
  busy : Bool
  /-- STATUS bit 1 (R22) -/
  done : Bool
  /-- STATUS bit 2, sticky (R22, R26) -/
  ovr : Bool
  /-- STATUS bit 3 (R20, R22) -/
  lastv : Bool
  /-- R23, R126 -/
  err : BitVec 3
  /-- R23 -/
  errdata : Word
  /-- R23 -/
  errcrc : Byte
  /-- R23 -/
  errval : BitVec 32
  /-- R18 -/
  rescnt : BitVec 2
  /-- `RES[0]` (R18) -/
  res0 : Word
  /-- `RES[1]` (R18) -/
  res1 : Word
  /-- `RES[2]` (R18) -/
  res2 : Word
  /-- R20 -/
  lastEco2 : Word
  /-- R20 -/
  lastTvoc : Word
  /-- R24 -/
  phase : Phase
  /-- the latched select code (R27) -/
  op : BitVec 4
  /-- the opcode of the wire command in progress (R27) -/
  opc : Word
  /-- `P[0]`, first parameter word in wire order (R27) -/
  p0 : Word
  /-- `P[1]` (R27) -/
  p1 : Word
  /-- how many of `P` are sent (R27) -/
  npar : BitVec 2
  /-- the response word count (R27) -/
  nresp : BitVec 2
  /-- the settle delay (R27) -/
  settleMs : BitVec 5
  /-- the accumulator of the Checksum Unit (R28) -/
  crc : Byte
  /-- `TXBUF[0..7]` (R29) -/
  txbuf : List Byte
  /-- R29 -/
  txlen : BitVec 4
  /-- `RXBUF[0..8]` (R30) -/
  rxbuf : List Byte
  /-- R30 -/
  rxlen : BitVec 4
  /-- the index of the block being checked (R30) -/
  blk : BitVec 2
  /-- the down-counter of `clk` cycles (R31) -/
  timer : Nat
  /-- polls made by INITIALISE (R32) -/
  pollcnt : BitVec 5
  /-- the model's own: what host, transport and time will do, in order (log 3) -/
  inputs : List Input
  /-- the model's own: completed transactions and waits, oldest first (R105, log 4) -/
  trace : List BusEvent
  deriving DecidableEq, Repr

/-- Why a run stops. All four are broken contracts, none is an error code of the hardware (R131); stopping there is
safe. -/
inductive Fault where
  /-- raised when a read is answered `ok` with another number of bytes than asked for (R44, U9: "must treat it as a
  fault"); safe -/
  | readLength
  /-- raised when the bus answers and no request is outstanding, which the port of R38 cannot carry (R138); safe -/
  | unsolicitedResponse
  /-- raised by DECODE on a frame whose length is not three times the count (R91, R131); no run reaches it; safe -/
  | frameLength
  /-- raised when an EXECUTE returns and OP holds a reserved code, which never begins one (R66); no run reaches it
  (log 21); safe -/
  | noCaller
  deriving DecidableEq, Repr

/-- Why an instruction has no meaning. -/
inductive Refusal where
  /-- an instruction without a meaning yet; raised by `exec` only; safe -/
  | notModelled (mnemonic : String)
  /-- raised by `step` in phase BUILD when OPC and P are no wire command: "The block never sends an opcode that is not
  in rule R59" (R61); no run reaches it (log 22);
  safe -/
  | notACommand
  deriving DecidableEq, Repr

/-- The outcome of a step of the block. -/
abbrev Result := Host.Outcome State Fault Refusal

/-- R34: the state after reset. The registers for which R34 says "none" hold 0 (log 2). -/
def State.reset : State where
  opsel := 0
  arg0 := 0
  arg1 := 0
  hum := 0
  busy := false
  done := false
  ovr := false
  lastv := false
  err := 0
  errdata := 0
  errcrc := 0
  errval := 0
  rescnt := 0
  res0 := 0
  res1 := 0
  res2 := 0
  lastEco2 := 0
  lastTvoc := 0
  phase := .idle
  op := 0
  opc := 0
  p0 := 0
  p1 := 0
  npar := 0
  nresp := 0
  settleMs := 0
  crc := 0
  txbuf := [0, 0, 0, 0, 0, 0, 0, 0]
  txlen := 0
  rxbuf := [0, 0, 0, 0, 0, 0, 0, 0, 0]
  rxlen := 0
  blk := 0
  timer := 0
  pollcnt := 0
  inputs := []
  trace := []

end Sys2Proof.Machine
end

