-- ==== Sys2Proof/Machine/Flags.lean ====
section
/-! DEFINITION. The status flags and the error registers: how they read (spec/10_state.md R22) and what each event that
writes them does to them (R22, R25, R26; spec/60_exceptions.md R126, R127). -/

namespace Sys2Proof.Machine

/-- R22: STATUS, with BUSY in bit 0, DONE in bit 1, OVR in bit 2 and LASTV in bit 3. -/
def status (s : State) : BitVec 4 :=
  BitVec.ofBool s.lastv ++ BitVec.ofBool s.ovr ++ BitVec.ofBool s.done ++ BitVec.ofBool s.busy

/-- R126: the code of an error. -/
def errCode : HwError → BitVec 3
  | .invalidChecksum _ _ => 1
  | .domain _ => 2
  | .io _ => 3
  | .illegalOp _ => 4

/-- R107: what ERRVAL says of a failed transaction. -/
def directionCode : Direction → BitVec 32
  | .write => 0
  | .read => 1

/-- R127: the payload registers an error writes; the others stay as they are. -/
def writePayload (e : HwError) (s : State) : State :=
  match e with
  | .invalidChecksum data crc => { s with errdata := data, errcrc := crc }
  | .domain value => { s with errval := value }
  | .io direction => { s with errval := directionCode direction }
  | .illegalOp code => { s with errval := code.setWidth 32 }

/-- R25: the error registers are cleared and the flags set when a `start` is accepted. -/
def flagsOnAccept (s : State) : State :=
  { s with err := 0, errdata := 0, errcrc := 0, errval := 0, done := false, busy := true }

/-- R111, R134: BUSY and DONE when an operation ends, with or without error. -/
def flagsOnEnd (s : State) : State :=
  { s with busy := false, done := true }

/-- R26: a `start` pulse while BUSY = 1 sets OVR and nothing else. -/
def overrun (s : State) : State := { s with ovr := true }

end Sys2Proof.Machine
end

