-- ==== Sys2Proof/Machine/Operands.lean ====
section
/-! DEFINITION. The host register bank (spec/10_state.md R14 to R23): writes and reads by register number. How the
operands of an operation become parameter words (spec/30_encoding.md R62, R64), the host's conversion of a humidity
(spec/43_sensor_session.md R124) and the lines of a host program (spec/30_encoding.md R68, R69). -/

namespace Sys2Proof.Machine

/-- R14: a host write. Registers 0 to 3 are writable; a write to any other number has no effect. A register narrower
than the port takes the low bits (log 18). -/
def hostWriteReg (number : Nat) (value : BitVec 32) (s : State) : State :=
  match number with
  | 0 => { s with opsel := value.setWidth 4 }
  | 1 => { s with arg0 := value.setWidth 16 }
  | 2 => { s with arg1 := value.setWidth 16 }
  | 3 => { s with hum := value }
  | _ => s

/-- R19: the 48-bit view of the result registers. -/
def serial48 (s : State) : BitVec 48 := s.res0 ++ s.res1 ++ s.res2

/-- R14: a host read, as the unsigned number the register's bits are. A number not in the table reads 0. A read
changes nothing. -/
def hostRead (number : Nat) (s : State) : Nat :=
  match number with
  | 0 => s.opsel.toNat
  | 1 => s.arg0.toNat
  | 2 => s.arg1.toNat
  | 3 => s.hum.toNat
  | 4 => (status s).toNat
  | 5 => s.err.toNat
  | 6 => s.errdata.toNat
  | 7 => s.errcrc.toNat
  | 8 => s.errval.toNat
  | 9 => s.rescnt.toNat
  | 10 => s.res0.toNat
  | 11 => s.res1.toNat
  | 12 => s.res2.toNat
  | 13 => (serial48 s).toNat
  | 14 => s.lastEco2.toNat
  | 15 => s.lastTvoc.toNat
  | 16 => Config.periphAddr.toNat
  | _ => 0

/-- R121, R62: the Baseline goes on the wire as (tvoc, co2eq), the reverse of the host's order. -/
def loadBaseline (s : State) : State := { s with p0 := s.arg1, p1 := s.arg0 }

/-- R123: the humidity operand is refused when it is negative or above 0xFFFF, that is when its integer part exceeds
`HUM_MAX_INT` = 255 (90_conflicts.md C2, log 19). -/
def humidityOutOfRange (hum : BitVec 32) : Bool :=
  decide (hum.toInt < 0) || decide (0xFFFF < hum.toInt)

/-- R64, R123: the humidity word is the low half of HUM, with no arithmetic. -/
def loadHumidity (s : State) : State := { s with p0 := s.hum.setWidth 16 }

/-- R124: the host's conversion of a humidity in grams per cubic metre; the multiplier is 256 (90_conflicts.md C1,
log 19). -/
def humFix (v : ℚ) : Int := ⌊v * 256⌋

/-- R124: what the host writes to HUM: the conversion, and where that does not fit 32 bits the values the rule gives
as its example (log 25). -/
def humReg (v : ℚ) : BitVec 32 :=
  if humFix v < -0x80000000 then 0x80000000
  else if 0x7FFFFFFF < humFix v then 0x7FFFFFFF
  else BitVec.ofInt 32 (humFix v)

/-- R68, R69: one line of a host program. `initialise` with an optional Baseline is the pseudo-operation of R69 (a). -/
inductive HostLine where
  | initialise (baseline : Option (Word × Word))
  | getSerialId
  | getFeatureSet
  | measure
  | getBaseline
  | setBaseline (co2eq tvoc : Word)
  | getRawSignals
  | setHumidity (v : ℚ)

/-- R68: what a line means at the register port: write the operand registers, write OPSEL, pulse `start`. The wait for
DONE is what the host does next. -/
def hostLineEvents : HostLine → List Input
  | .initialise none => [.hostWrite 0 0, .start]
  | .initialise (some (co2eq, tvoc)) =>
    [.hostWrite 1 (co2eq.setWidth 32), .hostWrite 2 (tvoc.setWidth 32), .hostWrite 0 1, .start]
  | .getSerialId => [.hostWrite 0 2, .start]
  | .getFeatureSet => [.hostWrite 0 3, .start]
  | .measure => [.hostWrite 0 4, .start]
  | .getBaseline => [.hostWrite 0 5, .start]
  | .setBaseline co2eq tvoc =>
    [.hostWrite 1 (co2eq.setWidth 32), .hostWrite 2 (tvoc.setWidth 32), .hostWrite 0 6, .start]
  | .getRawSignals => [.hostWrite 0 7, .start]
  | .setHumidity v => [.hostWrite 3 (humReg v), .hostWrite 0 8, .start]

end Sys2Proof.Machine
end

