-- ==== Sys2Proof/Machine/Ops.lean ====
section
/-! DEFINITION. The shared operations of the sequencer: accepting a `start` (spec/10_state.md R25), raising an error
(spec/60_exceptions.md R134, this hardware's exception entry), ending without error (spec/43_sensor_session.md R111),
loading a wire command (R27), the four steps of EXECUTE (spec/42_command_transport.md R97 to R102) and reset
(spec/70_reset_and_hazards.md R145). There is no return from an error (R135): accepting the next `start` clears it. -/

namespace Sys2Proof.Machine

/-- R25: the acceptance of a `start` whose select code is `code`, in one step. -/
def accept (code : BitVec 4) (s : State) : State :=
  { flagsOnAccept s with op := code, pollcnt := 0 }

/-- R134: error entry. The code, the payload, RESCNT, BUSY, DONE and PHASE change, nothing else. -/
def raise (e : HwError) (s : State) : State :=
  { flagsOnEnd (writePayload e s) with err := errCode e, rescnt := 0, phase := .idle }

/-- R111: ending without error, with `k` result words. ERR stays as it is. -/
def finish (k : BitVec 2) (s : State) : State :=
  { flagsOnEnd s with rescnt := k, phase := .idle }

/-- R18: the result words are written to RES in input order; RES beyond them keeps its contents. -/
def storeResults (ws : List Word) (s : State) : State :=
  { s with res0 := ws[0]?.getD s.res0, res1 := ws[1]?.getD s.res1, res2 := ws[2]?.getD s.res2 }

/-- R20, R118: the last Measurement is written as a whole, from two words. -/
def storeMeasurement (ws : List Word) (s : State) : State :=
  { s with lastEco2 := ws[0]?.getD s.lastEco2, lastTvoc := ws[1]?.getD s.lastTvoc, lastv := true }

/-- R27, R104: OPC, NPAR, NRESP and SETTLE_MS are loaded from the row of the command table, and EXECUTE begins. The
parameter words stand in P already. -/
def loadCommand (cmd : WireCmd) (s : State) : State :=
  { s with
    opc := (cmdRow cmd).opcode
    npar := (cmdRow cmd).params
    nresp := (cmdRow cmd).words
    settleMs := (cmdRow cmd).settle
    phase := .build }

/-- R27: the parameter words that are sent, in wire order. -/
def paramWords (s : State) : List Word := [s.p0, s.p1].take s.npar.toNat

/-- R57, R97: the outgoing bytes of the command in the working registers. -/
def commandBytes (s : State) : List Byte :=
  hiByte s.opc :: loByte s.opc :: encodeFrame (paramWords s)

/-- R29, R30: writing bytes into a buffer from index 0; the bytes behind them stay. -/
def overwrite (bytes buffer : List Byte) : List Byte := bytes ++ buffer.drop bytes.length

/-- R97, R86: step 1, phase BUILD. -/
def buildPhase (s : State) : State :=
  { s with
    txbuf := overwrite (commandBytes s) s.txbuf
    txlen := BitVec.ofNat 4 (commandBytes s).length
    crc := crcAfterEncode (paramWords s) s.crc
    phase := .write }

/-- R38: the request the block holds at its bus port, in phases WRITE and READ only. -/
def busRequest (s : State) : Option BusRequest :=
  match s.phase with
  | .write => some (.write Config.periphAddr (s.txbuf.take s.txlen.toNat))
  | .read => some (.read Config.periphAddr (3 * s.nresp.toNat))
  | _ => none

/-- R105: the trace entry of a request that completed with a response; `none` when the response of a read has another
number of bytes than asked for, which R44 makes a fault. -/
def completion (request : BusRequest) (response : BusResponse) : Option BusEvent :=
  match request, response with
  | .write addr bytes, .ok _ => some (.write addr bytes true)
  | .write addr bytes, .fail => some (.write addr bytes false)
  | .read addr count, .ok rbytes => if rbytes.length = count then some (.read addr count (some rbytes)) else none
  | .read addr count, .fail => some (.read addr count none)

/-- The trace grows at its end (log 4). -/
def record (e : BusEvent) (s : State) : State := { s with trace := s.trace ++ [e] }

/-- R31: a wait of `ms` milliseconds begins in the given phase. -/
def beginWait (phase : Phase) (ms : Nat) (s : State) : State :=
  { s with phase := phase, timer := ms * Config.ticksPerMs }

/-- R100, R108: after a successful write of a command with a response: `Wait(SETTLE_MS)`; a wait of 0 ends at once
(log 12). -/
def beginSettle (s : State) : State :=
  if s.settleMs = 0 then { record (.wait 0) s with phase := .read } else beginWait .settle s.settleMs.toNat s

/-- R101: the bytes of a response go to RXBUF. -/
def receive (rbytes : List Byte) (s : State) : State :=
  { s with rxbuf := overwrite rbytes s.rxbuf, rxlen := BitVec.ofNat 4 rbytes.length, phase := .decode }

/-- R92, R28: what BLK and CRC hold when phase DECODE ends (log 15). -/
def afterCheck (frame : List Byte) (s : State) : State :=
  { s with blk := BitVec.ofNat 2 (lastExamined frame), crc := crcAfterDecode frame s.crc }

/-- R145: `rst`. Every register takes its reset value; what is still to come and what has happened stay. A request that
is withdrawn appears in the trace as completed, or does not appear, as the event says (U2, log 17). -/
def resetBy (carriedOut : Option BusResponse) (s : State) : Result :=
  match busRequest s, carriedOut with
  | some request, some response =>
    match completion request response with
    | some e => .next { State.reset with inputs := s.inputs, trace := s.trace ++ [e] }
    | none => .fault .readLength
  | _, _ => .next { State.reset with inputs := s.inputs, trace := s.trace }

end Sys2Proof.Machine
end

