-- ==== Sys2Proof/Machine/Session.lean ====
section
/-! DEFINITION. The nine host operations of spec/43_sensor_session.md, each cut where an EXECUTE stands in its pseudocode:
what it does when its `start` is accepted (`begin…`), up to its first wire command or its refusal, and what it does with
the words an EXECUTE returns (`return…`). -/

namespace Sys2Proof.Machine

/-- R114: INITIALISE issues CMD_INIT. -/
def beginInitialise (s : State) : State := loadCommand .init (accept 0 s)

/-- R115: INITIALISE_BL issues CMD_INIT; its Baseline is copied when the `start` is accepted (R25, log 16). -/
def beginInitialiseBl (s : State) : State := loadCommand .init (loadBaseline (accept 1 s))

/-- R116 -/
def beginGetSerialId (s : State) : State := loadCommand .serialId (accept 2 s)

/-- R117 -/
def beginGetFeatureSet (s : State) : State := loadCommand .featureSet (accept 3 s)

/-- R118 -/
def beginMeasure (s : State) : State := loadCommand .measure (accept 4 s)

/-- R120 -/
def beginGetBaseline (s : State) : State := loadCommand .getBaseline (accept 5 s)

/-- R121 -/
def beginSetBaseline (s : State) : State := loadCommand .setBaseline (loadBaseline (accept 6 s))

/-- R122 -/
def beginGetRawSignals (s : State) : State := loadCommand .rawSignals (accept 7 s)

/-- R123: the operand is checked before any bus transaction. -/
def beginSetHumidity (s : State) : State :=
  if humidityOutOfRange s.hum then raise (.domain s.hum) (accept 8 s)
  else loadCommand .setHumidity (loadHumidity (accept 8 s))

/-- R66: a `start` accepted with a reserved select code ends at once. -/
def beginReserved (code : BitVec 4) (s : State) : State := raise (.illegalOp code) (accept code s)

/-- R25, R65, R66: accepting a `start` begins the operation that OPSEL selects. -/
def beginSelected (s : State) : State :=
  match decodeSelect s.opsel with
  | .ok .initialise => beginInitialise s
  | .ok .initialiseBl => beginInitialiseBl s
  | .ok .getSerialId => beginGetSerialId s
  | .ok .getFeatureSet => beginGetFeatureSet s
  | .ok .measure => beginMeasure s
  | .ok .getBaseline => beginGetBaseline s
  | .ok .setBaseline => beginSetBaseline s
  | .ok .getRawSignals => beginGetRawSignals s
  | .ok .setHumidity => beginSetHumidity s
  | _ => beginReserved s.opsel s

/-- R118, R114: what MEASURE and every poll of INITIALISE do with their words. -/
def takeMeasurement (ws : List Word) (s : State) : State := storeMeasurement ws (storeResults ws s)

/-- R114: after CMD_INIT the counter is cleared and the one-second wait before the first poll begins; after a poll the
counter is raised, and the polling ends when the equivalent CO2 differs from 400 or 20 polls were made. -/
def returnInitialise (ws : List Word) (s : State) : State :=
  if s.opc = (cmdRow .init).opcode then beginWait .pollwait pollPeriodMs { s with pollcnt := 0 }
  else
    let t := { takeMeasurement ws s with pollcnt := s.pollcnt + 1 }
    if ws.head? ≠ some sentinelEco2 ∨ t.pollcnt = pollMax then finish 2 t
    else beginWait .pollwait pollPeriodMs t

/-- R115: after CMD_INIT the Baseline is written, with no wait between; then the operation ends. -/
def returnInitialiseBl (_ws : List Word) (s : State) : State :=
  if s.opc = (cmdRow .init).opcode then loadCommand .setBaseline s else finish 0 s

/-- R116 -/
def returnGetSerialId (ws : List Word) (s : State) : State := finish 3 (storeResults ws s)

/-- R117 -/
def returnGetFeatureSet (ws : List Word) (s : State) : State := finish 1 (storeResults ws s)

/-- R118 -/
def returnMeasure (ws : List Word) (s : State) : State := finish 2 (takeMeasurement ws s)

/-- R120 -/
def returnGetBaseline (ws : List Word) (s : State) : State := finish 2 (storeResults ws s)

/-- R121 -/
def returnSetBaseline (_ws : List Word) (s : State) : State := finish 0 s

/-- R122 -/
def returnGetRawSignals (ws : List Word) (s : State) : State := finish 2 (storeResults ws s)

/-- R123 -/
def returnSetHumidity (_ws : List Word) (s : State) : State := finish 0 s

/-- R92, R104: the words of an EXECUTE go to the operation latched in OP. A reserved code never begins an EXECUTE
(R66), so nothing is returned to one. -/
def returnWords (ws : List Word) (s : State) : Result :=
  match decodeSelect s.op with
  | .ok .initialise => .next (returnInitialise ws s)
  | .ok .initialiseBl => .next (returnInitialiseBl ws s)
  | .ok .getSerialId => .next (returnGetSerialId ws s)
  | .ok .getFeatureSet => .next (returnGetFeatureSet ws s)
  | .ok .measure => .next (returnMeasure ws s)
  | .ok .getBaseline => .next (returnGetBaseline ws s)
  | .ok .setBaseline => .next (returnSetBaseline ws s)
  | .ok .getRawSignals => .next (returnGetRawSignals ws s)
  | .ok .setHumidity => .next (returnSetHumidity ws s)
  | _ => .fault .noCaller

end Sys2Proof.Machine
end

