-- ==== Sys2Proof/Machine/Sequencer.lean ====
section
/-! DEFINITION. The sequencer, one phase a step (spec/10_state.md R11, R24; spec/42_command_transport.md R104): what a bus
answer, the end of a wait, a host event or a reset does in each phase, the two phases that need none of them (BUILD and
DECODE), and the runs of phase steps that make up one EXECUTE or one host operation. -/

namespace Sys2Proof.Machine

/-- R98, R99, R107: the write completes with `response`; bytes in the answer to a write mean nothing (log 14). -/
def writeDone (response : BusResponse) (s : State) : Result :=
  match response with
  | .fail => .next (raise (.io .write) (record (.write Config.periphAddr (s.txbuf.take s.txlen.toNat) false) s))
  | .ok _ =>
    let t := record (.write Config.periphAddr (s.txbuf.take s.txlen.toNat) true) s
    if s.nresp = 0 then returnWords [] t else .next (beginSettle t)

/-- R101, R107, R44: the read completes with `response`. -/
def readDone (response : BusResponse) (s : State) : Result :=
  match response with
  | .fail => .next (raise (.io .read) (record (.read Config.periphAddr (3 * s.nresp.toNat) none) s))
  | .ok rbytes =>
    if rbytes.length = 3 * s.nresp.toNat then
      .next (receive rbytes (record (.read Config.periphAddr (3 * s.nresp.toNat) (some rbytes)) s))
    else .fault .readLength

/-- R102, R92: phase DECODE. On the first bad block the operation ends with its error; when every block is good the
words go to the operation. -/
def decodePhase (s : State) : Result :=
  let frame := s.rxbuf.take s.rxlen.toNat
  match decodeFrame frame s.nresp.toNat with
  | .ok ws => returnWords ws (afterCheck frame s)
  | .error (.invalidChecksum data crc) => .next (raise (.invalidChecksum data crc) (afterCheck frame s))
  | .error .badLength => .fault .frameLength

/-- R100, R114: the wait of phase SETTLE or POLLWAIT has ended: the read, or the next poll. In another phase there is
no wait to end. -/
def waitOver (s : State) : State :=
  match s.phase with
  | .settle => { record (.wait s.settleMs.toNat) s with timer := 0, phase := .read }
  | .pollwait => loadCommand .measure { record (.wait pollPeriodMs) s with timer := 0 }
  | _ => s

/-- R31: cycles of `clk` pass. TIMER counts down while a wait is in progress, and the wait ends when it reaches 0. -/
def clockCycles (cycles : Nat) (s : State) : State :=
  if s.phase = .settle ∨ s.phase = .pollwait then
    if s.timer ≤ cycles then waitOver s else { s with timer := s.timer - cycles }
  else s

/-- R37, R38: the transport answers the request outstanding. -/
def busAnswer (response : BusResponse) (s : State) : Result :=
  match s.phase with
  | .write => writeDone response s
  | .read => readDone response s
  | _ => .fault .unsolicitedResponse

/-- What one event of the other agents does, in any phase. -/
def onInput (e : Input) (s : State) : Result :=
  match e with
  | .hostWrite number value => .next (hostWriteReg number value s)
  | .start => .next (if s.busy then overrun s else beginSelected s)
  | .rst carriedOut => resetBy carriedOut s
  | .bus response => busAnswer response s
  | .clk cycles => .next (clockCycles cycles s)
  | .waitEnd => .next (waitOver s)

/-- R37, R146: in a phase that waits for another agent the next event is taken; while there is none the block stays as
it is (log 6). -/
def takeInput (s : State) : Result :=
  match s.inputs with
  | [] => .next s
  | e :: rest => onInput e { s with inputs := rest }

/-- R11: one step of the block, one phase. -/
def tick (s : State) : Result :=
  match s.phase with
  | .build => .next (buildPhase s)
  | .decode => decodePhase s
  | .idle | .write | .settle | .read | .pollwait => takeInput s

/-- Phase steps, until `stop` holds, at most as many as given. -/
def run (stop : State → Bool) : Nat → State → Result
  | 0, s => .next s
  | n + 1, s =>
    if stop s then .next s
    else match tick s with
      | .next t => run stop n t
      | .fault r => .fault r
      | .refused r => .refused r

/-- Phase steps enough for every event still to come: each is followed by at most two phases that need none (log 20). -/
def enough (s : State) : Nat := 3 * s.inputs.length + 3

/-- R111, R134: a host operation has ended when PHASE is IDLE. -/
def operationOver (s : State) : Bool := s.phase == .idle

/-- R104: an EXECUTE has ended when the operation has ended, waits before a poll, or begins another EXECUTE. -/
def executeOver (s : State) : Bool := s.phase == .idle || s.phase == .pollwait || s.phase == .build

/-- R5, R24: the phases of a host operation, to its end or to the point where the inputs run out (log 5, log 6). -/
def runOperation (s : State) : Result := run operationOver (enough s) s

/-- R103: the phases of one EXECUTE, from BUILD (log 7). -/
def runExecute (s : State) : Result := run executeOver (enough s) (buildPhase s)

/-- R25, R26: a host operation begins when its `start` finds BUSY = 0; else the pulse sets OVR and does nothing
more (log 24). -/
def startOperation (begin : State → State) (s : State) : Result :=
  if s.busy then .next (overrun s) else runOperation (begin s)

end Sys2Proof.Machine
end

