-- ==== Sys2Proof/Machine/HostOps.lean ====
section
/-! DEFINITION. The meanings of the nine host operations (spec/43_sensor_session.md): the whole operation, from the
acceptance of its `start` to its end or its error (log 5). -/

namespace Sys2Proof.Machine

/-- R114 -/
def execInitialise (s : State) : Result := startOperation beginInitialise s

/-- R115 -/
def execInitialiseBl (s : State) : Result := startOperation beginInitialiseBl s

/-- R116 -/
def execGetSerialId (s : State) : Result := startOperation beginGetSerialId s

/-- R117 -/
def execGetFeatureSet (s : State) : Result := startOperation beginGetFeatureSet s

/-- R118 -/
def execMeasure (s : State) : Result := startOperation beginMeasure s

/-- R120 -/
def execGetBaseline (s : State) : Result := startOperation beginGetBaseline s

/-- R121 -/
def execSetBaseline (s : State) : Result := startOperation beginSetBaseline s

/-- R122 -/
def execGetRawSignals (s : State) : Result := startOperation beginGetRawSignals s

/-- R123 -/
def execSetHumidity (s : State) : Result := startOperation beginSetHumidity s

end Sys2Proof.Machine
end

