-- ==== Sys2Proof/Machine/Wire.lean ====
section
/-! DEFINITION. The meanings of the eight wire commands: one EXECUTE (spec/42_command_transport.md R103) with the row of
the command table (spec/30_encoding.md R59), inside the host operation latched in OP, up to the hand-over of its words
to that operation (R92, R104; log 7). The checksum bytes of an instruction are what the codec puts after its parameter
words; no register holds them, and BUILD computes them anew (R86, log 10). -/

namespace Sys2Proof.Machine

/-- R116: W(36 82), Wait(1), R(9). -/
def execCmdSerialId (s : State) : Result := runExecute (loadCommand .serialId s)

/-- R117: W(20 2F), Wait(2), R(3). -/
def execCmdFeatureSet (s : State) : Result := runExecute (loadCommand .featureSet s)

/-- R113: W(20 03). -/
def execCmdInit (s : State) : Result := runExecute (loadCommand .init s)

/-- R120: W(20 15), Wait(10), R(6). -/
def execCmdGetBaseline (s : State) : Result := runExecute (loadCommand .getBaseline s)

/-- R121: W(20 1E p checksum q checksum). -/
def execCmdSetBaseline (p : Word) (_c : Byte) (q : Word) (_d : Byte) (s : State) : Result :=
  runExecute (loadCommand .setBaseline { s with p0 := p, p1 := q })

/-- R118: W(20 08), Wait(22), R(6). -/
def execCmdMeasure (s : State) : Result := runExecute (loadCommand .measure s)

/-- R122: W(20 50), Wait(25), R(6). -/
def execCmdRawSignals (s : State) : Result := runExecute (loadCommand .rawSignals s)

/-- R123: W(20 61 p checksum). -/
def execCmdSetHumidity (p : Word) (_c : Byte) (s : State) : Result :=
  runExecute (loadCommand .setHumidity { s with p0 := p })

end Sys2Proof.Machine
end

