-- ==== Sys2Proof/Machine/Dispatch.lean ====
section
/-! DEFINITION. The dispatch: one arm for each row of spec/opcode_table.json, each one call of its meaning. -/

namespace Sys2Proof.Machine
open Sys2Proof

def exec (i : Instr) (s : State) : Host.Outcome State Fault Refusal :=
  match i with
  | .cmdSerialId => Sys2Proof.Machine.execCmdSerialId s
  | .cmdFeatureSet => Sys2Proof.Machine.execCmdFeatureSet s
  | .cmdInit => Sys2Proof.Machine.execCmdInit s
  | .cmdGetBaseline => Sys2Proof.Machine.execCmdGetBaseline s
  | .cmdSetBaseline p c q d => Sys2Proof.Machine.execCmdSetBaseline p c q d s
  | .cmdMeasure => Sys2Proof.Machine.execCmdMeasure s
  | .cmdRawSignals => Sys2Proof.Machine.execCmdRawSignals s
  | .cmdSetHumidity p c => Sys2Proof.Machine.execCmdSetHumidity p c s
  | .initialise => Sys2Proof.Machine.execInitialise s
  | .initialiseBl => Sys2Proof.Machine.execInitialiseBl s
  | .getSerialId => Sys2Proof.Machine.execGetSerialId s
  | .getFeatureSet => Sys2Proof.Machine.execGetFeatureSet s
  | .measure => Sys2Proof.Machine.execMeasure s
  | .getBaseline => Sys2Proof.Machine.execGetBaseline s
  | .setBaseline => Sys2Proof.Machine.execSetBaseline s
  | .getRawSignals => Sys2Proof.Machine.execGetRawSignals s
  | .setHumidity => Sys2Proof.Machine.execSetHumidity s

end Sys2Proof.Machine
end

