-- ==== Sys2Proof/Machine/Fetch.lean ====
section
/-! DEFINITION. Where the next instruction is read from (log 8). The block fetches nothing from a memory
(spec/10_state.md R24). While it is idle and `start` is pulsed, the instruction is the host operation whose select code
is in OPSEL (R25). In phase BUILD it is the wire command whose opcode and parameter words are in OPC and P (R27). -/

namespace Sys2Proof.Machine

/-- R15, R25: the byte of the selected host operation. -/
def fetchSelect (s : State) : List Byte := [s.opsel.setWidth 8]

/-- R97: the bytes of the wire command in the working registers. -/
def fetchCommand (s : State) : List Byte := commandBytes s

/-- The select code of the host operation that issues a wire command (R65); of the three that issue CMD_MEASURE,
CMD_SET_BASELINE or CMD_INIT the one named is MEASURE, SET_BASELINE and INITIALISE (log 8). -/
def callerOf : WireCmd → BitVec 4
  | .init => 0
  | .serialId => 2
  | .featureSet => 3
  | .measure => 4
  | .getBaseline => 5
  | .setBaseline => 6
  | .rawSignals => 7
  | .setHumidity => 8

/-- The block idle, `code` in OPSEL and a `start` pulse next. -/
def placeSelect (code : BitVec 4) (s : State) : State :=
  { s with opsel := code, busy := false, phase := .idle, inputs := .start :: s.inputs }

/-- The block in phase BUILD of a host operation, about to issue `cmd` with the parameter words `p` and `q`. -/
def placeCommand (cmd : WireCmd) (p q : Word) (s : State) : State :=
  loadCommand cmd { s with op := callerOf cmd, p0 := p, p1 := q, busy := true, done := false }

/-- Where a word of the opcode table is put: a select code (a row of at most 8 bits) in OPSEL, a wire command in the
working registers. An opcode that is no row is put in OPC as it is. -/
def placeTableWord (nbits w : Nat) (s : State) : State :=
  if nbits ≤ 8 then placeSelect (BitVec.ofNat 4 w) s
  else
    match cmdOfOpcode (BitVec.ofNat 16 w) with
    | some cmd => placeCommand cmd (tableParam w 0) (tableParam w 1) s
    | none => { s with opc := BitVec.ofNat 16 w, npar := 0, busy := true, done := false, phase := .build }

end Sys2Proof.Machine
end

