-- ==== Sys2Proof/Machine/Step.lean ====
section
/-! DEFINITION. The step of the machine (log 5): a `start` pulse that finds the block idle runs the selected host
operation; phase BUILD runs the wire command in the working registers; everything else is one phase step. -/

namespace Sys2Proof.Machine

/-- R25, R66: a `start` pulse while the block is idle: the selected operation, or ILLEGAL_OP for a reserved code. -/
def stepStart (s : State) : Host.Outcome State Fault Refusal :=
  match decode (fetchSelect s) with
  | .ok i => exec i s
  | .error _ => .next (beginReserved s.opsel s)

/-- R104: phase BUILD: the wire command in the working registers. -/
def stepBuild (s : State) : Host.Outcome State Fault Refusal :=
  match decode (fetchCommand s) with
  | .ok i => exec i s
  | .error _ => .refused .notACommand

/-- One step of the machine. -/
def step (s : State) : Host.Outcome State Fault Refusal :=
  match s.phase with
  | .idle =>
    match s.inputs with
    | .start :: rest => stepStart { s with inputs := rest }
    | _ => tick s
  | .build => stepBuild s
  | .write | .settle | .read | .decode | .pollwait => tick s

/-- `s` with an instruction of the opcode table where `step` reads its next one (log 8). -/
def State.withFetchWord (s : State) (nbits w : Nat) : State := placeTableWord nbits w s

end Sys2Proof.Machine
end

