-- ==== Sys2Proof/Safety.lean ====
section
/-! DEFINITION. What counts as a good state and a good run, in the terms the claims use: the invariant of the registers,
what a trace must be, when a host may read a register, and which events the environment may bring. -/

namespace Sys2Proof.Machine

/-- R65: the host operation with select code `op` issues the wire command `cmd`. -/
def issues (op : BitVec 4) (cmd : WireCmd) : Bool :=
  match op.toNat, cmd with
  | 0, .init | 0, .measure => true
  | 1, .init | 1, .setBaseline => true
  | 2, .serialId => true
  | 3, .featureSet => true
  | 4, .measure => true
  | 5, .getBaseline => true
  | 6, .setBaseline => true
  | 7, .rawSignals => true
  | 8, .setHumidity => true
  | _, _ => false

/-- R27: the working registers hold the row of `cmd`. -/
def holdsRow (cmd : WireCmd) (s : State) : Prop :=
  s.opc = (cmdRow cmd).opcode ∧ s.npar = (cmdRow cmd).params ∧ s.nresp = (cmdRow cmd).words
    ∧ s.settleMs = (cmdRow cmd).settle

/-- What holds of the registers in every state that a run reaches. -/
structure Inv (s : State) : Prop where
  /-- R24: PHASE is IDLE exactly when BUSY = 0 -/
  idleIffNotBusy : s.phase = .idle ↔ s.busy = false
  /-- R22: BUSY and DONE are never both 1 -/
  notBusyAndDone : ¬(s.busy = true ∧ s.done = true)
  /-- R29 -/
  txbufSize : s.txbuf.length = 8
  /-- R30 -/
  rxbufSize : s.rxbuf.length = 9
  /-- R126: codes 5 to 7 are never written -/
  errCodes : s.err.toNat ≤ 4
  /-- R25: ERR is cleared when a `start` is accepted, and written only at the end -/
  noErrWhileBusy : s.busy = true → s.err = 0
  /-- R18: after an error there is no result word -/
  noResultAfterError : s.err ≠ 0 → s.rescnt = 0
  /-- R127: a payload register that the code does not use is 0 -/
  checksumPayload : s.err ≠ 1 → s.errdata = 0 ∧ s.errcrc = 0
  /-- R127 -/
  valuePayload : s.err = 0 ∨ s.err = 1 → s.errval = 0
  /-- R31: only SETTLE and POLLWAIT use TIMER -/
  timerIdle : s.phase ≠ .settle → s.phase ≠ .pollwait → s.timer = 0
  /-- R27, R65: while an operation runs, the working registers hold a row that the operation issues -/
  running : s.busy = true → ∃ cmd, issues s.op cmd = true ∧ holdsRow cmd s
  /-- R114: only INITIALISE polls -/
  pollwaitOp : s.phase = .pollwait → s.op = 0
  /-- R99: there is a wait and a read only when there is a response -/
  responding : s.phase = .settle ∨ s.phase = .read ∨ s.phase = .decode → s.nresp ≠ 0
  /-- R97: from WRITE on, TXBUF holds the bytes of the command -/
  transmitted : s.phase = .write ∨ s.phase = .settle ∨ s.phase = .read ∨ s.phase = .decode →
    s.txbuf.take s.txlen.toNat = commandBytes s
  /-- R101, R43: RXLEN is three times the response count -/
  received : s.phase = .decode → s.rxlen.toNat = 3 * s.nresp.toNat
  /-- R32 -/
  pollBound : s.pollcnt.toNat ≤ 20
  /-- R114: while INITIALISE runs, polls are left -/
  pollsLeft : s.busy = true → s.op = 0 → s.pollcnt.toNat < 20

/-- R61, R36: every write on the bus is to the sensor and is one whole well-formed wire command. -/
def writesAreCommands (tr : List BusEvent) : Prop :=
  ∀ addr bytes ok, BusEvent.write addr bytes ok ∈ tr →
    addr = Config.periphAddr ∧ ∃ i : Instr, i.isHostOp = false ∧ i.wellFormed = true ∧ encode i = bytes

/-- R149, R51: every read comes right after the settle wait of the command it answers, that wait right after the
command's write, and the read asks for exactly the command's response and gets as many bytes or fails. -/
def readsAreSettled (tr : List BusEvent) : Prop :=
  ∀ before after addr count result, tr = before ++ BusEvent.read addr count result :: after →
    addr = Config.periphAddr ∧ (∀ bytes, result = some bytes → bytes.length = count) ∧
    ∃ earlier cmd, readLength cmd = count ∧
      before = earlier ++ [.write Config.periphAddr (opcodeBytes (cmdRow cmd).opcode) true,
        .wait (cmdRow cmd).settle.toNat]

/-- The trace is good, and the phase says what its last entries are. -/
structure TraceInv (s : State) : Prop where
  writes : writesAreCommands s.trace
  reads : readsAreSettled s.trace
  /-- R100: in SETTLE the command's write is the last thing that happened -/
  settling : s.phase = .settle → ∃ earlier, s.trace = earlier ++ [.write Config.periphAddr (commandBytes s) true]
  /-- R101: in READ the settle wait is the last thing that happened, the write the last but one -/
  reading : s.phase = .read → ∃ earlier,
    s.trace = earlier ++ [.write Config.periphAddr (commandBytes s) true, .wait s.settleMs.toNat]

/-- R158: the host may read `RES[i]`. -/
def resultReadable (s : State) (i : Nat) : Bool := s.done && s.err == 0 && decide (i < s.rescnt.toNat)

/-- R158: the host may read LAST_ECO2 and LAST_TVOC. -/
def measurementReadable (s : State) : Bool := s.lastv

/-- R151, 93_implementation_defined.md U1: a run in which OVR became 1 has gone wrong. -/
def wentWrong (s : State) : Bool := s.ovr

/-- The event is a host write or a `start` pulse (R158). -/
def Input.isHostAccess : Input → Bool
  | .hostWrite _ _ | .start => true
  | .rst _ | .bus _ | .clk _ | .waitEnd => false

/-- R37, R38, R44: the next event keeps the transport's contract: a bus answer only while a request is outstanding, and
a read answered `ok` with exactly the bytes asked for (for a request withdrawn by reset too). -/
def keepsContract (s : State) : Prop :=
  match s.inputs with
  | .bus (.ok rbytes) :: _ =>
    s.phase = .write ∨ (s.phase = .read ∧ rbytes.length = 3 * s.nresp.toNat)
  | .bus .fail :: _ => s.phase = .write ∨ s.phase = .read
  | .rst (some (.ok rbytes)) :: _ => s.phase = .read → rbytes.length = 3 * s.nresp.toNat
  | _ => True

/-- The block rests: it is idle, or it waits for an event and there is none (R37, R146). -/
def atRest (s : State) : Prop :=
  s.phase = .idle ∨ (s.inputs = [] ∧ s.phase ≠ .build ∧ s.phase ≠ .decode)

end Sys2Proof.Machine
end

