-- ==== Sys2Proof/Certificates/Slice0/Obligations.lean ====
section
/-! DEFINITION. The statements for the provers. Each docstring says which rule of spec/ it formalises, or that it is
derived. A title that rests on a choice of the model names its log entry. -/

open Sys2Proof Sys2Proof.Machine

/-! ## Checksum Unit -/

/-- R82: the source's known vectors. -/
def Obligations.ChecksumKnownVectors : Prop :=
  checksum 0x01 0x90 = 0x4C ∧ checksum 0x00 0x00 = 0x81 ∧ checksum 0xBE 0xEF = 0x92 ∧ checksum 0x0F 0x80 = 0x62

/-- R75: masking at every shift and masking once at the end give the same result, on every input. -/
def Obligations.MaskingOnceEqualsMaskingEveryShift : Prop :=
  ∀ b0 b1 : Byte, checksumMaskedOnce b0 b1 = checksum b0 b1

/-- R81: of a block that verifies, flipping any single bit of the checksum byte, or of a data byte, makes it fail; and
for every two data bytes exactly one of the 256 checksum bytes verifies, so 2^16 of the 2^24 blocks do. -/
def Obligations.SingleBitFlipNeverVerifies : Prop :=
  (∀ (b0 b1 c : Byte) (i : Fin 8), verify b0 b1 c = true →
    verify b0 b1 (flipBit c i) = false ∧ verify (flipBit b0 i) b1 c = false
      ∧ verify b0 (flipBit b1 i) c = false) ∧
  (∀ b0 b1 : Byte, ∃! c : Byte, verify b0 b1 c = true)

/-! ## Frame Codec -/

/-- R94: `decode(encode(W), len(W)) == W` for all sequences of Words. -/
def Obligations.FrameRoundTrip : Prop :=
  ∀ ws : List Word, decodeFrame (encodeFrame ws) ws.length = .ok ws

/-- R84, R85: word `i` occupies bytes `3i` to `3i+2` of the frame, big-endian and then its checksum, and the frame has
three bytes for each word. -/
def Obligations.EncodedWordPositions : Prop :=
  ∀ ws : List Word, (encodeFrame ws).length = 3 * ws.length ∧
    ∀ (i : Nat) (w : Word), ws[i]? = some w →
      (encodeFrame ws)[3 * i]? = some (w.extractLsb' 8 8) ∧ (encodeFrame ws)[3 * i + 1]? = some (w.extractLsb' 0 8) ∧
      (encodeFrame ws)[3 * i + 2]? = some (checksum (w.extractLsb' 8 8) (w.extractLsb' 0 8))

/-- R89: what DECODE answers. Words exactly for the frame that ENCODE makes of them; on the first block that does not
verify that block's two data bytes and its checksum byte as received, whatever the blocks after it are; a length that is
not `3 * n` (R91) is neither words nor InvalidChecksum. -/
def Obligations.DecodeAnswers : Prop :=
  (∀ (frame : List Byte) (n : Nat) (ws : List Word),
    decodeFrame frame n = .ok ws ↔ frame = encodeFrame ws ∧ n = ws.length) ∧
  (∀ (good : List Word) (b0 b1 c : Byte) (after : List Byte) (n : Nat), verify b0 b1 c = false →
    (encodeFrame good ++ b0 :: b1 :: c :: after).length = 3 * n →
    decodeFrame (encodeFrame good ++ b0 :: b1 :: c :: after) n = .error (.invalidChecksum (b0 ++ b1) c)) ∧
  (∀ (frame : List Byte) (n : Nat), frame.length ≠ 3 * n → decodeFrame frame n = .error .badLength)

/-- R95: if exactly one bit of a frame that decodes is flipped, DECODE raises InvalidChecksum with the payload of the
block that holds the flipped bit. -/
def Obligations.SingleBitCorruptionDetected : Prop :=
  ∀ (before after : List Byte) (b0 b1 c : Byte) (m n : Nat) (ws : List Word) (i : Fin 8),
    before.length = 3 * m → decodeFrame (before ++ b0 :: b1 :: c :: after) n = .ok ws →
    decodeFrame (before ++ (flipBit b0 i) :: b1 :: c :: after) n
        = .error (.invalidChecksum ((flipBit b0 i) ++ b1) c) ∧
    decodeFrame (before ++ b0 :: (flipBit b1 i) :: c :: after) n
        = .error (.invalidChecksum (b0 ++ (flipBit b1 i)) c) ∧
    decodeFrame (before ++ b0 :: b1 :: (flipBit c i) :: after) n
        = .error (.invalidChecksum (b0 ++ b1) (flipBit c i))

/-! ## Encodings of instructions -/

/-- Decode and encode agree on every well-formed instruction of the table (R57, R59, R65). -/
def Obligations.DecodeOfEncode : Prop :=
  ∀ i : Instr, i.wellFormed = true → decode (encode i) = .ok i

/-- What decodes is well formed, and its bytes are the only ones that decode to it (R8, R57, R60, R65). -/
def Obligations.DecodedBytesAreTheEncoding : Prop :=
  ∀ (bytes : List Byte) (i : Instr), decode bytes = .ok i → i.wellFormed = true ∧ encode i = bytes

/-- Words written out from the tables of R57, R59 and R65 decode to the instructions they stand for; a reserved select
code, an unlisted opcode and a wrong checksum byte do not decode. -/
def Obligations.WrittenWordsDecode : Prop :=
  decode [0x36, 0x82] = .ok .cmdSerialId ∧ decode [0x20, 0x03] = .ok .cmdInit ∧ decode [0x20, 0x08] = .ok .cmdMeasure ∧
  decode [0x20, 0x61, 0x0F, 0x80, 0x62] = .ok (.cmdSetHumidity 0x0F80 0x62) ∧
  decode [0x20, 0x1E, 0x8C, 0x11, 0x64, 0x8A, 0x3F, 0xA7] = .ok (.cmdSetBaseline 0x8C11 0x64 0x8A3F 0xA7) ∧
  decode [4] = .ok .measure ∧ decode [8] = .ok .setHumidity ∧
  decode [9] = .error .reservedSelect ∧ decode [0x20, 0x09] = .error .unknownOpcode ∧
  decode [0x20, 0x61, 0x0F, 0x80, 0x63] = .error .wrongChecksum

/-! ## Reset and the invariant -/

/-- Every value that R34 gives a register at reset, and what the host reads then. (The registers for which R34 says
"none" are not named here: their value is the model's choice, log 2.) -/
def Obligations.ResetValues : Prop :=
  State.reset.opsel = 0 ∧ State.reset.arg0 = 0 ∧ State.reset.arg1 = 0 ∧ State.reset.hum = 0 ∧
  State.reset.busy = false ∧ State.reset.done = false ∧ State.reset.ovr = false ∧ State.reset.lastv = false ∧
  State.reset.err = 0 ∧ State.reset.errdata = 0 ∧ State.reset.errcrc = 0 ∧ State.reset.errval = 0 ∧
  State.reset.rescnt = 0 ∧ State.reset.phase = .idle ∧ State.reset.timer = 0 ∧ State.reset.pollcnt = 0 ∧
  hostRead 16 State.reset = Config.periphAddr.toNat

/-- The invariant holds at reset. -/
def Obligations.InvariantAtReset : Prop := Inv State.reset ∧ TraceInv State.reset

/-- Every step keeps the invariant of the registers (R18, R22, R24, R27 to R32, R97, R101, R126, R127). -/
def Obligations.StepKeepsInvariant : Prop :=
  ∀ s t : State, Inv s → step s = .next t → Inv t

/-- Every step keeps the trace good: only the eight commands are written, and every read comes right after the settle
wait of the command whose write comes right before it (R51, R61, R149). -/
def Obligations.StepKeepsTraceSettled : Prop :=
  ∀ s t : State, Inv s → TraceInv s → step s = .next t → TraceInv t

/-! ## Step and instruction -/

/-- A `start` pulse that finds the block idle runs the instruction whose select code is in OPSEL. -/
def Obligations.StepRunsSelectedOperation : Prop :=
  ∀ (s : State) (rest : List Input) (i : Instr), s.phase = .idle → s.inputs = .start :: rest →
    decode [s.opsel.setWidth 8] = .ok i → step s = exec i { s with inputs := rest }

/-- In phase BUILD the step runs the wire command whose bytes are those of OPC and P. -/
def Obligations.StepRunsWireCommand : Prop :=
  ∀ (s : State) (i : Instr), s.phase = .build →
    decode (hiByte s.opc :: loByte s.opc :: encodeFrame ([s.p0, s.p1].take s.npar.toNat)) = .ok i →
    step s = exec i s

/-- R66: a `start` accepted with a reserved select code does no transaction and no wait and ends at once with
ILLEGAL_OP, ERRVAL holding the code. -/
def Obligations.ReservedSelectCode : Prop :=
  ∀ (s : State) (rest : List Input), s.phase = .idle → s.busy = false → s.inputs = .start :: rest →
    9 ≤ s.opsel.toNat →
    step s = .next { s with op := s.opsel, err := 4, errdata := 0, errcrc := 0, errval := s.opsel.setWidth 32,
                            rescnt := 0, busy := false, done := true, pollcnt := 0, phase := .idle, inputs := rest }

/-- The whole operation that a `start` pulse runs is what the phase steps make of it, one after another, from the
acceptance of the pulse (R24, R25). -/
def Obligations.OperationIsItsPhaseSteps : Prop :=
  ∀ (s u : State) (rest : List Input), s.phase = .idle → s.busy = false → s.inputs = .start :: rest →
    tick s = .next u → step s = run operationOver (enough u) u

/-- A host operation that does not fault goes on until the block is idle, or until it waits for an event that has not
come (R37, R111, R134). The bound on phase steps is the model's (log 20), and so is the rest (log 6). -/
def Obligations.OperationRunsToRest : Prop :=
  ∀ (i : Instr) (s t : State), i.isHostOp = true → s.busy = false → exec i s = .next t → atRest t

/-- From a state of the invariant a phase step faults only when the environment breaks the contract of the bus port
(R37, R38, R44), and no step of the machine refuses. -/
def Obligations.OnlyBrokenContractsFault : Prop :=
  (∀ s : State, Inv s → keepsContract s → ∃ t, tick s = .next t) ∧
  (∀ (s : State) (r : Refusal), Inv s → step s ≠ .refused r)

/-- R44, R38: a read answered `ok` with another number of bytes than asked for is a fault, and so is an answer when no
request is outstanding. -/
def Obligations.BrokenContractsFault : Prop :=
  (∀ (s : State) (rbytes : List Byte) (rest : List Input), s.phase = .read → s.inputs = .bus (.ok rbytes) :: rest →
    rbytes.length ≠ 3 * s.nresp.toNat → step s = .fault .readLength) ∧
  (∀ (s : State) (r : BusResponse) (rest : List Input), s.inputs = .bus r :: rest →
    s.phase = .idle ∨ s.phase = .settle ∨ s.phase = .pollwait → step s = .fault .unsolicitedResponse)

/-! ## The host's side -/

/-- Derived from R26: a `start` while BUSY = 1 changes nothing except OVR, in a phase step and in every host operation.
That `exec` of a host operation at BUSY = 1 is such a pulse is the model's (log 24); a `start` that comes in BUILD or
DECODE is taken in the next phase that waits (log 3). -/
def Obligations.StartWhileBusy : Prop :=
  (∀ (s : State) (rest : List Input), s.busy = true → s.inputs = .start :: rest → s.phase ≠ .build →
    s.phase ≠ .decode → tick s = .next { s with inputs := rest, ovr := true }) ∧
  (∀ (i : Instr) (s : State), i.isHostOp = true → s.busy = true → exec i s = .next { s with ovr := true })

/-- Derived from R14, R19: a host write changes the one register it names, if the host may write it, and nothing else;
a register narrower than the port takes the value's low bits, which is the model's choice (log 18). Each number reads as
the register the bank gives it, STATUS with BUSY, DONE, OVR, LASTV in bits 0 to 3, SERIAL48 as
`(RES[0] << 32) | (RES[1] << 16) | RES[2]`; numbers above 16 read 0. A write that comes in BUILD or DECODE is taken in
the next phase that waits (log 3). -/
def Obligations.HostRegisterPort : Prop :=
  (∀ (s : State) (number : Nat) (value : BitVec 32) (rest : List Input), s.inputs = .hostWrite number value :: rest →
    s.phase ≠ .build → s.phase ≠ .decode →
    step s = .next { s with
      inputs := rest
      opsel := if number = 0 then value.setWidth 4 else s.opsel
      arg0 := if number = 1 then value.setWidth 16 else s.arg0
      arg1 := if number = 2 then value.setWidth 16 else s.arg1
      hum := if number = 3 then value else s.hum }) ∧
  (∀ s : State,
    hostRead 0 s = s.opsel.toNat ∧ hostRead 1 s = s.arg0.toNat ∧ hostRead 2 s = s.arg1.toNat ∧
    hostRead 3 s = s.hum.toNat ∧
    hostRead 4 s = s.busy.toNat + 2 * s.done.toNat + 4 * s.ovr.toNat + 8 * s.lastv.toNat ∧
    hostRead 5 s = s.err.toNat ∧ hostRead 6 s = s.errdata.toNat ∧ hostRead 7 s = s.errcrc.toNat ∧
    hostRead 8 s = s.errval.toNat ∧ hostRead 9 s = s.rescnt.toNat ∧ hostRead 10 s = s.res0.toNat ∧
    hostRead 11 s = s.res1.toNat ∧ hostRead 12 s = s.res2.toNat ∧
    hostRead 13 s = (s.res0.toNat <<< 32) ||| (s.res1.toNat <<< 16) ||| s.res2.toNat ∧
    hostRead 14 s = s.lastEco2.toNat ∧ hostRead 15 s = s.lastTvoc.toNat ∧
    hostRead 16 s = Config.periphAddr.toNat) ∧
  (∀ (s : State) (number : Nat), 17 ≤ number → hostRead number s = 0)

/-- R15, R16, R17: the block never writes OPSEL, ARG[0], ARG[1] or HUM. -/
def Obligations.OperandRegistersAreTheHosts : Prop :=
  ∀ s t : State, (∀ e ∈ s.inputs, (∀ n v, e ≠ .hostWrite n v) ∧ ∀ c, e ≠ .rst c) → step s = .next t →
    t.opsel = s.opsel ∧ t.arg0 = s.arg0 ∧ t.arg1 = s.arg1 ∧ t.hum = s.hum

/-- R20, R22: OVR and LASTV are sticky: only reset clears them. -/
def Obligations.StickyFlags : Prop :=
  ∀ s t : State, (∀ e ∈ s.inputs, ∀ c, e ≠ .rst c) → step s = .next t →
    (s.ovr = true → t.ovr = true) ∧ (s.lastv = true → t.lastv = true)

/-- R20: the last Measurement is written only after a whole response has passed its checksums, by MEASURE or a poll of
INITIALISE, and as a whole; else only reset changes it. -/
def Obligations.LastMeasurementWriters : Prop :=
  ∀ s t : State, Inv s → (∀ c rest, s.inputs ≠ .rst c :: rest) → tick s = .next t →
    (t.lastv = s.lastv ∧ t.lastEco2 = s.lastEco2 ∧ t.lastTvoc = s.lastTvoc) ∨
    (s.phase = .decode ∧ (s.op = 0 ∨ s.op = 4) ∧ ∃ w0 w1, s.rxbuf.take s.rxlen.toNat = encodeFrame [w0, w1] ∧
      t.lastv = true ∧ t.lastEco2 = w0 ∧ t.lastTvoc = w1)

/-- R25, R26: host writes and `start` pulses that come while an operation runs do not change what it does: with them
left out it makes the same trace, the same results and the same error. -/
def Obligations.RunningOperationIgnoresHost : Prop :=
  ∀ (i : Instr) (s t : State), i.isHostOp = true → s.busy = false → (∀ e ∈ s.inputs, ∀ c, e ≠ .rst c) →
    exec i s = .next t →
    ∃ u, exec i { s with inputs := s.inputs.filter (fun e => !e.isHostAccess) } = .next u ∧
      u = { t with opsel := s.opsel, arg0 := s.arg0, arg1 := s.arg1, hum := s.hum, ovr := s.ovr,
                   inputs := t.inputs.filter (fun e => !e.isHostAccess) }

/-- R37, R146, R156: while no event comes, the block stays as it is: idle until `start`, in WRITE or READ until the
transport answers, in a wait until it ends. -/
def Obligations.NoEventNoChange : Prop :=
  ∀ s : State, s.inputs = [] → s.phase ≠ .build → s.phase ≠ .decode → step s = .next s

/-- R145: `rst` gives every register its reset value, also while an operation runs; the trace gains at most the request
that was withdrawn, as completed if the event says so (log 17). The registers whose entry in R34 is "none" take the
model's value, 0 (log 2, log 17). -/
def Obligations.ResetAbandonsOperation : Prop :=
  (∀ (s : State) (rest : List Input), s.inputs = .rst none :: rest → s.phase ≠ .build → s.phase ≠ .decode →
    step s = .next { State.reset with inputs := rest, trace := s.trace }) ∧
  (∀ (s : State) (r : BusResponse) (rest : List Input), s.inputs = .rst (some r) :: rest → s.phase = .idle ∨
    s.phase = .settle ∨ s.phase = .pollwait →
    step s = .next { State.reset with inputs := rest, trace := s.trace }) ∧
  (∀ (s : State) (rbytes : List Byte) (rest : List Input), s.inputs = .rst (some (.ok rbytes)) :: rest →
    (s.phase = .write → step s = .next { State.reset with
      inputs := rest
      trace := s.trace ++ [.write Config.periphAddr (s.txbuf.take s.txlen.toNat) true] }) ∧
    (s.phase = .read → rbytes.length = 3 * s.nresp.toNat → step s = .next { State.reset with
      inputs := rest
      trace := s.trace ++ [.read Config.periphAddr (3 * s.nresp.toNat) (some rbytes)] })) ∧
  (∀ (s : State) (rest : List Input), s.inputs = .rst (some .fail) :: rest →
    (s.phase = .write → step s = .next { State.reset with
      inputs := rest
      trace := s.trace ++ [.write Config.periphAddr (s.txbuf.take s.txlen.toNat) false] }) ∧
    (s.phase = .read → step s = .next { State.reset with
      inputs := rest
      trace := s.trace ++ [.read Config.periphAddr (3 * s.nresp.toNat) none] }))

/-- R31, R148: a settle wait loads the timer with `SETTLE_MS * TICKS_PER_MS`; in SETTLE and POLLWAIT the timer counts `clk`
cycles down, and the wait is over, and in the trace, when it reaches 0 (log 11). -/
def Obligations.TimerCountsDown : Prop :=
  (∀ (s : State) (bytes : List Byte) (rest : List Input), s.inputs = .bus (.ok bytes) :: rest → s.phase = .write →
    s.nresp ≠ 0 → s.settleMs ≠ 0 →
    step s = .next { s with
      phase := .settle, timer := s.settleMs.toNat * Config.ticksPerMs, inputs := rest
      trace := s.trace ++ [.write Config.periphAddr (s.txbuf.take s.txlen.toNat) true] }) ∧
  (∀ (s : State) (n : Nat) (rest : List Input), s.inputs = .clk n :: rest →
    s.phase = .settle ∨ s.phase = .pollwait → n < s.timer →
    step s = .next { s with timer := s.timer - n, inputs := rest }) ∧
  (∀ (s : State) (n : Nat) (rest : List Input), s.inputs = .clk n :: rest → s.phase = .settle → s.timer ≤ n →
    step s = .next { s with timer := 0, phase := .read, inputs := rest,
                            trace := s.trace ++ [.wait s.settleMs.toNat] }) ∧
  (∀ (s : State) (n : Nat) (rest : List Input), s.inputs = .clk n :: rest → s.phase = .pollwait → s.timer ≤ n →
    step s = .next { s with timer := 0, phase := .build, opc := 0x2008, npar := 0, nresp := 2, settleMs := 22,
                            inputs := rest, trace := s.trace ++ [.wait 1000] }) ∧
  (∀ (s : State) (n : Nat) (rest : List Input), s.inputs = .clk n :: rest →
    s.phase = .idle ∨ s.phase = .write ∨ s.phase = .read → step s = .next { s with inputs := rest })

/-- R124: `hum_fix(v) = floor(v * 256)`, written to HUM as a 32-bit two's-complement integer where it fits, and else as a
value outside 0 to 0xFFFF of the same sign; the block's test on HUM is the source's test on `v`, and the word sent is
`floor(v * 256)`. -/
def Obligations.HumidityConversion : Prop :=
  ∀ v : ℚ, humFix v = ⌊v * 256⌋ ∧
    (-0x80000000 ≤ ⌊v * 256⌋ → ⌊v * 256⌋ ≤ 0x7FFFFFFF → (humReg v).toInt = ⌊v * 256⌋) ∧
    (⌊v * 256⌋ < -0x80000000 → (humReg v).toInt < 0) ∧ (0x7FFFFFFF < ⌊v * 256⌋ → 0xFFFF < (humReg v).toInt) ∧
    (humFix v < 0 ↔ v < 0) ∧ (0xFFFF < humFix v ↔ 256 ≤ v) ∧
    (humidityOutOfRange (humReg v) = true ↔ v < 0 ∨ 256 ≤ v) ∧
    (0 ≤ v → v < 256 → ((humReg v).setWidth 16 : Word).toNat = ⌊v * 256⌋.toNat)

/-! ## How an operation ends -/

/-- R134, R127: error entry, for each kind of error: the code, the payload registers that the kind writes, RESCNT, BUSY,
DONE and PHASE, and nothing else. -/
def Obligations.ErrorEntry : Prop :=
  ∀ s : State,
    (∀ (data : Word) (crc : Byte), raise (.invalidChecksum data crc) s =
      { s with err := 1, errdata := data, errcrc := crc, rescnt := 0, busy := false, done := true, phase := .idle }) ∧
    (∀ value : BitVec 32, raise (.domain value) s =
      { s with err := 2, errval := value, rescnt := 0, busy := false, done := true, phase := .idle }) ∧
    raise (.io .write) s =
      { s with err := 3, errval := 0, rescnt := 0, busy := false, done := true, phase := .idle } ∧
    raise (.io .read) s =
      { s with err := 3, errval := 1, rescnt := 0, busy := false, done := true, phase := .idle } ∧
    (∀ code : BitVec 4, raise (.illegalOp code) s =
      { s with err := 4, errval := BitVec.ofNat 32 code.toNat, rescnt := 0, busy := false, done := true,
               phase := .idle })

/-- R111: ending without error with `k` result words changes RESCNT, BUSY, DONE and PHASE, and nothing else: ERR stays. -/
def Obligations.EndWithoutError : Prop :=
  ∀ (k : BitVec 2) (s : State),
    finish k s = { s with rescnt := k, busy := false, done := true, phase := .idle }

/-! ## Host operations

In these statements the transport answers every write `ok` unless said otherwise, each wait is let end, and `rest` is
what comes after the operation. `accepted` is what R25 does when the `start` is accepted, `written` what one wire command
leaves in the working registers, `answered` what its response leaves there, `ended` what R111 does at the end. Each is
written out here on its own, field by field. The values of CRC and BLK in them, which no rule reads (R28, R34), are the
model's (log 15); each statement that fixes them says so. -/

namespace Sys2Proof.Machine

/-- R25: the registers after a `start` for `code` was accepted. -/
def accepted (code : BitVec 4) (s : State) : State :=
  { s with op := code, err := 0, errdata := 0, errcrc := 0, errval := 0, done := false, busy := true, pollcnt := 0 }

/-- R27, R57, R97: the working registers and the trace after a wire command with no parameters was written `ok`. -/
def written (opc : Word) (words : BitVec 2) (settle : BitVec 5) (s : State) : State :=
  { s with opc := opc, npar := 0, nresp := words, settleMs := settle, phase := .write,
           txbuf := opc.extractLsb' 8 8 :: opc.extractLsb' 0 8 :: s.txbuf.drop 2, txlen := 2,
           trace := s.trace ++ [.write Config.periphAddr [opc.extractLsb' 8 8, opc.extractLsb' 0 8] true] }

/-- R27, R57, R97, R121: the same after SET_BASELINE's command with parameter words `p` and `q`; the value of CRC is the
model's (log 15). -/
def writtenBaseline (p q : Word) (s : State) : State :=
  { s with opc := 0x201E, npar := 2, nresp := 0, settleMs := 0, p0 := p, p1 := q, phase := .write,
           txbuf := 0x20 :: 0x1E :: encodeFrame [p, q] ++ s.txbuf.drop 8, txlen := 8,
           crc := wordChecksum q,
           trace := s.trace ++ [.write Config.periphAddr (0x20 :: 0x1E :: encodeFrame [p, q]) true] }

/-- R27, R57, R97, R123: the same after SET_HUMIDITY's command with parameter word `p`; the value of CRC is the model's
(log 15). -/
def writtenHumidity (p : Word) (s : State) : State :=
  { s with opc := 0x2061, npar := 1, nresp := 0, settleMs := 0, p0 := p, phase := .write,
           txbuf := 0x20 :: 0x61 :: encodeFrame [p] ++ s.txbuf.drop 5, txlen := 5,
           crc := wordChecksum p,
           trace := s.trace ++ [.write Config.periphAddr (0x20 :: 0x61 :: encodeFrame [p]) true] }

/-- R100, R101, R92: after the settle wait and a read that brought the frame of `ws` (at least one word); the values of
CRC and BLK are the model's (log 15). -/
def answered (ws : List Word) (s : State) : State :=
  { s with timer := 0, rxbuf := encodeFrame ws ++ s.rxbuf.drop (3 * ws.length),
           rxlen := BitVec.ofNat 4 (3 * ws.length), blk := BitVec.ofNat 2 (ws.length - 1),
           crc := wordChecksum (ws.getLastD 0), phase := .decode,
           trace := s.trace ++ [.wait s.settleMs.toNat,
             .read Config.periphAddr (3 * ws.length) (some (encodeFrame ws))] }

/-- R111: the operation has ended with `k` result words, and `rest` is still to come. -/
def ended (k : BitVec 2) (rest : List Input) (s : State) : State :=
  { s with rescnt := k, busy := false, done := true, phase := .idle, inputs := rest }

/-- R134: the operation has ended with an error; `code`, `data`, `crc`, `value` are what the error registers hold. -/
def endedInError (code : BitVec 3) (data : Word) (crc : Byte) (value : BitVec 32) (rest : List Input) (s : State) :
    State :=
  { s with err := code, errdata := data, errcrc := crc, errval := value, rescnt := 0, busy := false, done := true,
           phase := .idle, inputs := rest }

/-- The events that answer a command with response `ws`: the write `ok`, the end of the settle wait, the read. -/
def answers (ws : List Word) : List Input := [.bus (.ok []), .waitEnd, .bus (.ok (encodeFrame ws))]

end Sys2Proof.Machine

/-- R116: GET_SERIAL_ID, its trace, its three result words, and that nothing else changes. What CRC and BLK hold
at the end is the model's (log 15). -/
def Obligations.GetSerialIdResult : Prop :=
  ∀ (s : State) (w0 w1 w2 : Word) (rest : List Input), s.busy = false → s.inputs = answers [w0, w1, w2] ++ rest →
    exec .getSerialId s = .next (ended 3 rest
      { answered [w0, w1, w2] (written 0x3682 3 1 (accepted 2 s)) with res0 := w0, res1 := w1, res2 := w2 })

/-- R117: GET_FEATURE_SET, its trace and its one result word, returned as it is. What CRC and BLK hold at the
end is the model's (log 15). -/
def Obligations.GetFeatureSetResult : Prop :=
  ∀ (s : State) (w0 : Word) (rest : List Input), s.busy = false → s.inputs = answers [w0] ++ rest →
    exec .getFeatureSet s = .next (ended 1 rest
      { answered [w0] (written 0x202F 1 2 (accepted 3 s)) with res0 := w0 })

/-- R118: MEASURE, its trace, its result words and the last Measurement. What CRC and BLK hold at the end is the
model's (log 15). -/
def Obligations.MeasureResult : Prop :=
  ∀ (s : State) (w0 w1 : Word) (rest : List Input), s.busy = false → s.inputs = answers [w0, w1] ++ rest →
    exec .measure s = .next (ended 2 rest
      { answered [w0, w1] (written 0x2008 2 22 (accepted 4 s)) with
        res0 := w0, res1 := w1, lastEco2 := w0, lastTvoc := w1, lastv := true })

/-- R120: GET_BASELINE, its trace and its result words, co2eq first. What CRC and BLK hold at the end is the model's
(log 15). -/
def Obligations.GetBaselineResult : Prop :=
  ∀ (s : State) (w0 w1 : Word) (rest : List Input), s.busy = false → s.inputs = answers [w0, w1] ++ rest →
    exec .getBaseline s = .next (ended 2 rest
      { answered [w0, w1] (written 0x2015 2 10 (accepted 5 s)) with res0 := w0, res1 := w1 })

/-- R122: GET_RAW_SIGNALS, its trace and its result words; the last Measurement is not touched. What CRC
and BLK hold at the end is the model's (log 15). -/
def Obligations.GetRawSignalsResult : Prop :=
  ∀ (s : State) (w0 w1 : Word) (rest : List Input), s.busy = false → s.inputs = answers [w0, w1] ++ rest →
    exec .getRawSignals s = .next (ended 2 rest
      { answered [w0, w1] (written 0x2050 2 25 (accepted 7 s)) with res0 := w0, res1 := w1 })

/-- R121: SET_BASELINE writes (tvoc, co2eq), `ARG[1]` first, in one transaction of 8 bytes, and ends. What CRC
holds at the end is the model's (log 15). -/
def Obligations.SetBaselineResult : Prop :=
  ∀ (s : State) (bytes : List Byte) (rest : List Input), s.busy = false →
    s.inputs = .bus (.ok bytes) :: rest →
    exec .setBaseline s = .next (ended 0 rest (writtenBaseline s.arg1 s.arg0 (accepted 6 s)))

/-- R115: INITIALISE_BL writes CMD_INIT and then at once the Baseline; no wait, no read, no poll. What CRC holds at
the end is the model's (log 15). -/
def Obligations.InitialiseBlResult : Prop :=
  ∀ (s : State) (bytes bytes' : List Byte) (rest : List Input), s.busy = false →
    s.inputs = .bus (.ok bytes) :: .bus (.ok bytes') :: rest →
    exec .initialiseBl s = .next (ended 0 rest (writtenBaseline s.arg1 s.arg0 (written 0x2003 0 0 (accepted 1 s))))

/-- R123: SET_HUMIDITY with `0 <= HUM <= 0xFFFF` writes the low half of HUM in one transaction of 5 bytes. What
CRC holds at the end is the model's (log 15). -/
def Obligations.SetHumidityResult : Prop :=
  ∀ (s : State) (bytes : List Byte) (rest : List Input), s.busy = false → 0 ≤ s.hum.toInt → s.hum.toInt ≤ 0xFFFF →
    s.inputs = .bus (.ok bytes) :: rest →
    exec .setHumidity s = .next (ended 0 rest (writtenHumidity (s.hum.setWidth 16) (accepted 8 s)))

/-- R123, R129: SET_HUMIDITY with HUM outside 0 to 0xFFFF ends at once with DOMAIN, ERRVAL holding HUM, whatever the
transport would answer: the trace does not grow and no event is taken. -/
def Obligations.SetHumidityDomainError : Prop :=
  ∀ s : State, s.busy = false → s.hum.toInt < 0 ∨ 0xFFFF < s.hum.toInt →
    exec .setHumidity s = .next (endedInError 2 0 0 s.hum s.inputs (accepted 8 s))

namespace Sys2Proof.Machine

/-- The events that answer the polls of INITIALISE: before each the end of the one-second wait. -/
def pollAnswers : List (Word × Word) → List Input
  | [] => []
  | (w0, w1) :: polls => .waitEnd :: answers [w0, w1] ++ pollAnswers polls

/-- R114: the registers and the trace after one whole poll that brought the words of `w`; the values of CRC and BLK are
the model's (log 15). -/
def polled (w : Word × Word) (s : State) : State :=
  { answered [w.1, w.2] (written 0x2008 2 22 { s with trace := s.trace ++ [.wait 1000] }) with
    res0 := w.1, res1 := w.2, lastEco2 := w.1, lastTvoc := w.2, lastv := true, pollcnt := s.pollcnt + 1 }

/-- R114: the polls `early` and then `final` are a whole warm-up: each of `early` read 400, there are fewer than 20 of
them, and `final` read something else or is the 20th. -/
def warmUp (early : List (Word × Word)) (final : Word × Word) : Prop :=
  (∀ w ∈ early, w.1 = 400) ∧ early.length < 20 ∧ (final.1 ≠ 400 ∨ early.length = 19)

end Sys2Proof.Machine

/-- R114: INITIALISE writes CMD_INIT and polls, one second before each poll, until a poll reads another equivalent CO2
than 400 or 20 polls were made; RES and the last Measurement hold the last poll's words. What CRC and BLK hold at
the end is the model's (log 15). -/
def Obligations.InitialiseResult : Prop :=
  ∀ (s : State) (bytes : List Byte) (early : List (Word × Word)) (final : Word × Word) (rest : List Input),
    s.busy = false → warmUp early final →
    s.inputs = .bus (.ok bytes) :: pollAnswers (early ++ [final]) ++ rest →
    exec .initialise s = .next (ended 2 rest
      ((early ++ [final]).foldl (fun t w => polled w t) (written 0x2003 0 0 (accepted 0 s))))

/-- R114, R136: when the read of a poll fails, INITIALISE ends with IO at that poll; the polls before it have updated
RES and the last Measurement, and those updates stay, but RESCNT is 0. What CRC and BLK hold after the polls before is
the model's (log 15). -/
def Obligations.InitialisePollReadFails : Prop :=
  ∀ (s : State) (bytes bytes' : List Byte) (early : List (Word × Word)) (rest : List Input),
    s.busy = false → (∀ w ∈ early, w.1 = 400) → early.length < 20 →
    s.inputs = .bus (.ok bytes) :: pollAnswers early
      ++ .waitEnd :: .bus (.ok bytes') :: .waitEnd :: .bus .fail :: rest →
    let before := early.foldl (fun t w => polled w t) (written 0x2003 0 0 (accepted 0 s))
    exec .initialise s = .next (endedInError 3 0 0 1 rest
      { written 0x2008 2 22 { before with trace := before.trace ++ [.wait 1000] } with
        timer := 0
        trace := before.trace ++ [.wait 1000, .write Config.periphAddr [0x20, 0x08] true, .wait 22,
          .read Config.periphAddr 6 none] })

/-- R114, R107, R136: when the write of a poll fails, INITIALISE ends with IO at that poll, with no settle wait and no
read; what the polls before it updated stays, but RESCNT is 0. What CRC and BLK hold after the polls before is the
model's (log 15). -/
def Obligations.InitialisePollWriteFails : Prop :=
  ∀ (s : State) (bytes : List Byte) (early : List (Word × Word)) (rest : List Input),
    s.busy = false → (∀ w ∈ early, w.1 = 400) → early.length < 20 →
    s.inputs = .bus (.ok bytes) :: pollAnswers early ++ .waitEnd :: .bus .fail :: rest →
    let before := early.foldl (fun t w => polled w t) (written 0x2003 0 0 (accepted 0 s))
    exec .initialise s = .next (endedInError 3 0 0 0 rest
      { written 0x2008 2 22 before with
        timer := 0
        trace := before.trace ++ [.wait 1000, .write Config.periphAddr [0x20, 0x08] false] })

/-- R114, R126, R136: when a poll's response has a block that does not verify, INITIALISE ends with INVALID_CHECKSUM and
the bytes of the first such block; no word of that response is delivered, what the polls before it updated stays, but
RESCNT is 0. What CRC and BLK hold at the end is the model's (log 15). -/
def Obligations.InitialisePollCorrupt : Prop :=
  ∀ (s : State) (bytes bytes' : List Byte) (early : List (Word × Word)) (good : List Word) (b0 b1 c : Byte)
    (after : List Byte) (rest : List Input),
    s.busy = false → (∀ w ∈ early, w.1 = 400) → early.length < 20 → verify b0 b1 c = false →
    (encodeFrame good ++ b0 :: b1 :: c :: after).length = 6 →
    s.inputs = .bus (.ok bytes) :: pollAnswers early
      ++ .waitEnd :: .bus (.ok bytes') :: .waitEnd
        :: .bus (.ok (encodeFrame good ++ b0 :: b1 :: c :: after)) :: rest →
    let before := early.foldl (fun t w => polled w t) (written 0x2003 0 0 (accepted 0 s))
    exec .initialise s = .next (endedInError 1 (b0 ++ b1) c 0 rest
      { written 0x2008 2 22 before with
        timer := 0
        rxbuf := encodeFrame good ++ b0 :: b1 :: c :: after ++ before.rxbuf.drop 6
        rxlen := 6
        blk := BitVec.ofNat 2 good.length
        crc := checksum b0 b1
        trace := before.trace ++ [.wait 1000, .write Config.periphAddr [0x20, 0x08] true, .wait 22,
          .read Config.periphAddr 6 (some (encodeFrame good ++ b0 :: b1 :: c :: after))] })

namespace Sys2Proof.Machine

/-- R65: the select code and the wire command of the five operations that read one response. -/
def readingOps : List (Instr × BitVec 4 × WireCmd) :=
  [(.getSerialId, 2, .serialId), (.getFeatureSet, 3, .featureSet), (.measure, 4, .measure),
   (.getBaseline, 5, .getBaseline), (.getRawSignals, 7, .rawSignals)]

/-- `written` with the row of a command. -/
def writtenRow (cmd : WireCmd) (s : State) : State :=
  written (cmdRow cmd).opcode (cmdRow cmd).words (cmdRow cmd).settle s

end Sys2Proof.Machine

/-- R107, R134: when the write of an operation's first command fails, the operation ends with IO, ERRVAL 0: no wait, no
read, nothing delivered. For the operations whose first command has no parameters. That P holds the Baseline already
when INITIALISE_BL's first write fails is the model's reading of R25 (log 16). -/
def Obligations.FirstWriteFails : Prop :=
  (∀ (i : Instr) (code : BitVec 4) (cmd : WireCmd) (s : State) (rest : List Input),
    (i, code, cmd) ∈ (Instr.initialise, 0, WireCmd.init) :: readingOps → s.busy = false →
    s.inputs = .bus .fail :: rest →
    exec i s = .next (endedInError 3 0 0 0 rest
      { writtenRow cmd (accepted code s) with
        trace := s.trace ++ [.write Config.periphAddr (opcodeBytes (cmdRow cmd).opcode) false] })) ∧
  (∀ (s : State) (rest : List Input), s.busy = false → s.inputs = .bus .fail :: rest →
    exec .initialiseBl s = .next (endedInError 3 0 0 0 rest
      { written 0x2003 0 0 (accepted 1 s) with
        p0 := s.arg1, p1 := s.arg0
        trace := s.trace ++ [.write Config.periphAddr [0x20, 0x03] false] }))

/-- R107, R134: when the write of a command with parameters fails: SET_BASELINE, SET_HUMIDITY, and the second write of
INITIALISE_BL, whose first write stays done (R136). What CRC holds at the end is the model's (log 15). -/
def Obligations.ParameterWriteFails : Prop :=
  (∀ (s : State) (rest : List Input), s.busy = false → s.inputs = .bus .fail :: rest →
    exec .setBaseline s = .next (endedInError 3 0 0 0 rest
      { writtenBaseline s.arg1 s.arg0 (accepted 6 s) with
        trace := s.trace ++
          [.write Config.periphAddr (0x20 :: 0x1E :: encodeFrame [s.arg1, s.arg0]) false] })) ∧
  (∀ (s : State) (rest : List Input), s.busy = false → 0 ≤ s.hum.toInt → s.hum.toInt ≤ 0xFFFF →
    s.inputs = .bus .fail :: rest →
    exec .setHumidity s = .next (endedInError 3 0 0 0 rest
      { writtenHumidity (s.hum.setWidth 16) (accepted 8 s) with
        trace := s.trace ++
          [.write Config.periphAddr (0x20 :: 0x61 :: encodeFrame [s.hum.setWidth 16]) false] })) ∧
  (∀ (s : State) (bytes : List Byte) (rest : List Input), s.busy = false →
    s.inputs = .bus (.ok bytes) :: .bus .fail :: rest →
    exec .initialiseBl s = .next (endedInError 3 0 0 0 rest
      { writtenBaseline s.arg1 s.arg0 (written 0x2003 0 0 (accepted 1 s)) with
        trace := s.trace ++ [.write Config.periphAddr [0x20, 0x03] true,
          .write Config.periphAddr (0x20 :: 0x1E :: encodeFrame [s.arg1, s.arg0]) false] }))

/-- R107, R134: when the read of an operation's response fails, the operation ends with IO, ERRVAL 1: no decode, RES and
the last Measurement unchanged, RESCNT 0. -/
def Obligations.ReadFails : Prop :=
  ∀ (i : Instr) (code : BitVec 4) (cmd : WireCmd) (s : State) (bytes : List Byte) (rest : List Input),
    (i, code, cmd) ∈ readingOps → s.busy = false →
    s.inputs = .bus (.ok bytes) :: .waitEnd :: .bus .fail :: rest →
    exec i s = .next (endedInError 3 0 0 1 rest
      { writtenRow cmd (accepted code s) with
        timer := 0
        trace := s.trace ++ [.write Config.periphAddr (opcodeBytes (cmdRow cmd).opcode) true,
          .wait (cmdRow cmd).settle.toNat, .read Config.periphAddr (readLength cmd) none] })

/-- R106, R128, R134: when a block of the response does not verify, the operation ends with INVALID_CHECKSUM and the
bytes of the first such block; the words before it are not delivered, RES and the last Measurement are unchanged, and
there is no second read. What CRC and BLK hold at the end is the model's (log 15). -/
def Obligations.CorruptResponse : Prop :=
  ∀ (i : Instr) (code : BitVec 4) (cmd : WireCmd) (s : State) (bytes : List Byte) (good : List Word)
    (b0 b1 c : Byte) (after : List Byte) (rest : List Input),
    (i, code, cmd) ∈ readingOps → s.busy = false → verify b0 b1 c = false →
    (encodeFrame good ++ b0 :: b1 :: c :: after).length = readLength cmd →
    s.inputs = .bus (.ok bytes) :: .waitEnd :: .bus (.ok (encodeFrame good ++ b0 :: b1 :: c :: after)) :: rest →
    exec i s = .next (endedInError 1 (b0 ++ b1) c 0 rest
      { writtenRow cmd (accepted code s) with
        timer := 0
        rxbuf := encodeFrame good ++ b0 :: b1 :: c :: after ++ s.rxbuf.drop (readLength cmd)
        rxlen := BitVec.ofNat 4 (readLength cmd)
        blk := BitVec.ofNat 2 good.length
        crc := checksum b0 b1
        trace := s.trace ++ [.write Config.periphAddr (opcodeBytes (cmdRow cmd).opcode) true,
          .wait (cmdRow cmd).settle.toNat,
          .read Config.periphAddr (readLength cmd) (some (encodeFrame good ++ b0 :: b1 :: c :: after))] })

/-! ## Wire commands

A wire command runs inside the host operation latched in OP (log 7). -/

/-- R113, R114, R115: CMD_INIT writes `20 03`. Inside INITIALISE the one-second wait before the first poll then begins;
inside INITIALISE_BL the Baseline command is loaded at once. -/
def Obligations.CmdInitResult : Prop :=
  (∀ (s : State) (bytes : List Byte) (rest : List Input), s.op = 0 → s.inputs = .bus (.ok bytes) :: rest →
    exec .cmdInit s = .next { written 0x2003 0 0 s with
      phase := .pollwait, timer := 1000 * Config.ticksPerMs, pollcnt := 0, inputs := rest }) ∧
  (∀ (s : State) (bytes : List Byte) (rest : List Input), s.op = 1 → s.inputs = .bus (.ok bytes) :: rest →
    exec .cmdInit s = .next { written 0x2003 0 0 s with
      phase := .build, opc := 0x201E, npar := 2, inputs := rest })

/-- R121, R115: CMD_SET_BASELINE writes its encoding in one transaction and its operation, SET_BASELINE or
INITIALISE_BL, ends with no result word (log 7). What CRC holds at the end is the model's (log 15). -/
def Obligations.CmdSetBaselineResult : Prop :=
  ∀ (s : State) (p q : Word) (c d : Byte) (bytes : List Byte) (rest : List Input), s.op = 6 ∨ s.op = 1 →
    (Instr.cmdSetBaseline p c q d).wellFormed = true → s.inputs = .bus (.ok bytes) :: rest →
    exec (.cmdSetBaseline p c q d) s = .next { ended 0 rest (writtenBaseline p q s) with
      trace := s.trace ++ [.write Config.periphAddr (encode (.cmdSetBaseline p c q d)) true] }

/-- R123: CMD_SET_HUMIDITY writes its encoding in one transaction and SET_HUMIDITY ends with no result word
(log 7). What CRC holds at the end is the model's (log 15). -/
def Obligations.CmdSetHumidityResult : Prop :=
  ∀ (s : State) (p : Word) (c : Byte) (bytes : List Byte) (rest : List Input), s.op = 8 →
    (Instr.cmdSetHumidity p c).wellFormed = true → s.inputs = .bus (.ok bytes) :: rest →
    exec (.cmdSetHumidity p c) s = .next { ended 0 rest (writtenHumidity p s) with
      trace := s.trace ++ [.write Config.periphAddr (encode (.cmdSetHumidity p c)) true] }

/-- R116, R117, R120, R122: the wire commands with a response other than CMD_MEASURE, inside their operations
(log 7). What CRC and BLK hold at the end is the model's (log 15). -/
def Obligations.CmdReadingResults : Prop :=
  (∀ (s : State) (w0 w1 w2 : Word) (rest : List Input), s.op = 2 → s.inputs = answers [w0, w1, w2] ++ rest →
    exec .cmdSerialId s = .next (ended 3 rest
      { answered [w0, w1, w2] (written 0x3682 3 1 s) with res0 := w0, res1 := w1, res2 := w2 })) ∧
  (∀ (s : State) (w0 : Word) (rest : List Input), s.op = 3 → s.inputs = answers [w0] ++ rest →
    exec .cmdFeatureSet s = .next (ended 1 rest { answered [w0] (written 0x202F 1 2 s) with res0 := w0 })) ∧
  (∀ (s : State) (w0 w1 : Word) (rest : List Input), s.op = 5 → s.inputs = answers [w0, w1] ++ rest →
    exec .cmdGetBaseline s = .next (ended 2 rest
      { answered [w0, w1] (written 0x2015 2 10 s) with res0 := w0, res1 := w1 })) ∧
  (∀ (s : State) (w0 w1 : Word) (rest : List Input), s.op = 7 → s.inputs = answers [w0, w1] ++ rest →
    exec .cmdRawSignals s = .next (ended 2 rest
      { answered [w0, w1] (written 0x2050 2 25 s) with res0 := w0, res1 := w1 }))

/-- R118, R114: CMD_MEASURE inside MEASURE ends it with the two words; as a poll of INITIALISE it ends it when the
equivalent CO2 differs from 400 or this is the 20th poll, and else begins the next one-second wait (log 7). What CRC
and BLK hold at the end is the model's (log 15). -/
def Obligations.CmdMeasureResult : Prop :=
  ∀ (s : State) (w0 w1 : Word) (rest : List Input), s.inputs = answers [w0, w1] ++ rest →
    let t := { answered [w0, w1] (written 0x2008 2 22 s) with
      res0 := w0, res1 := w1, lastEco2 := w0, lastTvoc := w1, lastv := true }
    (s.op = 4 → exec .cmdMeasure s = .next (ended 2 rest t)) ∧
    (s.op = 0 → w0 ≠ 400 ∨ s.pollcnt = 19 →
      exec .cmdMeasure s = .next (ended 2 rest { t with pollcnt := s.pollcnt + 1 })) ∧
    (s.op = 0 → w0 = 400 → s.pollcnt ≠ 19 →
      exec .cmdMeasure s = .next { t with
        pollcnt := s.pollcnt + 1, phase := .pollwait, timer := 1000 * Config.ticksPerMs, inputs := rest })

/-- R107, R134, R57: when the write of a wire command fails, the operation it runs in ends with IO, ERRVAL 0, and the
failed write carried the command's encoding. -/
def Obligations.WireWriteFails : Prop :=
  ∀ (i : Instr) (s : State) (rest : List Input), i.isHostOp = false → i.wellFormed = true →
    s.inputs = .bus .fail :: rest → ∃ t, exec i s = .next t ∧
    t.err = 3 ∧ t.errval = 0 ∧ t.rescnt = 0 ∧ t.busy = false ∧ t.done = true ∧ t.phase = .idle ∧
    t.trace = s.trace ++ [.write Config.periphAddr (encode i) false] ∧ t.inputs = rest ∧
    t.res0 = s.res0 ∧ t.res1 = s.res1 ∧ t.res2 = s.res2 ∧
    t.lastv = s.lastv ∧ t.lastEco2 = s.lastEco2 ∧ t.lastTvoc = s.lastTvoc

namespace Sys2Proof.Machine

/-- R59: the wire commands that have a response, with their rows. -/
def readingCmds : List (Instr × WireCmd) :=
  [(.cmdSerialId, .serialId), (.cmdFeatureSet, .featureSet), (.cmdGetBaseline, .getBaseline),
   (.cmdMeasure, .measure), (.cmdRawSignals, .rawSignals)]

end Sys2Proof.Machine

/-- R107, R134: when the read of a wire command's response fails, the operation it runs in (log 7) ends with IO,
ERRVAL 1: no decode, nothing delivered. ERRDATA and ERRCRC keep what they hold. -/
def Obligations.WireReadFails : Prop :=
  ∀ (i : Instr) (cmd : WireCmd) (s : State) (bytes : List Byte) (rest : List Input), (i, cmd) ∈ readingCmds →
    s.inputs = .bus (.ok bytes) :: .waitEnd :: .bus .fail :: rest →
    exec i s = .next (endedInError 3 s.errdata s.errcrc 1 rest
      { writtenRow cmd s with
        timer := 0
        trace := s.trace ++ [.write Config.periphAddr (opcodeBytes (cmdRow cmd).opcode) true,
          .wait (cmdRow cmd).settle.toNat, .read Config.periphAddr (readLength cmd) none] })

/-- R106, R127, R134: when a block of a wire command's response does not verify, the operation it runs in (log 7) ends
with INVALID_CHECKSUM and the bytes of the first such block; nothing is delivered and there is no second read. ERRVAL
keeps what it holds. What CRC and BLK hold at the end is the model's (log 15). -/
def Obligations.WireCorruptResponse : Prop :=
  ∀ (i : Instr) (cmd : WireCmd) (s : State) (bytes : List Byte) (good : List Word) (b0 b1 c : Byte)
    (after : List Byte) (rest : List Input), (i, cmd) ∈ readingCmds → verify b0 b1 c = false →
    (encodeFrame good ++ b0 :: b1 :: c :: after).length = readLength cmd →
    s.inputs = .bus (.ok bytes) :: .waitEnd :: .bus (.ok (encodeFrame good ++ b0 :: b1 :: c :: after)) :: rest →
    exec i s = .next (endedInError 1 (b0 ++ b1) c s.errval rest
      { writtenRow cmd s with
        timer := 0
        rxbuf := encodeFrame good ++ b0 :: b1 :: c :: after ++ s.rxbuf.drop (readLength cmd)
        rxlen := BitVec.ofNat 4 (readLength cmd)
        blk := BitVec.ofNat 2 good.length
        crc := checksum b0 b1
        trace := s.trace ++ [.write Config.periphAddr (opcodeBytes (cmdRow cmd).opcode) true,
          .wait (cmdRow cmd).settle.toNat,
          .read Config.periphAddr (readLength cmd) (some (encodeFrame good ++ b0 :: b1 :: c :: after))] })

/-- R68: the register writes of each of the nine lines of a host program, done one after another while the block is
idle, leave the line's operands and select code in the registers and its `start` pulse next, and change nothing else. -/
def Obligations.HostLineSetsUpItsOperation : Prop :=
  ∀ (s : State) (rest : List Input), s.phase = .idle →
    (∀ (line : HostLine) (code : BitVec 4),
      (line, code) ∈ [(.initialise none, 0), (.getSerialId, 2), (.getFeatureSet, 3), (.measure, 4),
        (.getBaseline, 5), (.getRawSignals, 7)] →
      s.inputs = hostLineEvents line ++ rest →
      Sys2Proof.core.run 1 s = .next { s with opsel := code, inputs := .start :: rest }) ∧
    (∀ co2eq tvoc : Word, s.inputs = hostLineEvents (.setBaseline co2eq tvoc) ++ rest →
      Sys2Proof.core.run 3 s = .next { s with arg0 := co2eq, arg1 := tvoc, opsel := 6, inputs := .start :: rest }) ∧
    (∀ co2eq tvoc : Word, s.inputs = hostLineEvents (.initialise (some (co2eq, tvoc))) ++ rest →
      Sys2Proof.core.run 3 s = .next { s with arg0 := co2eq, arg1 := tvoc, opsel := 1, inputs := .start :: rest }) ∧
    (∀ v : ℚ, s.inputs = hostLineEvents (.setHumidity v) ++ rest →
      Sys2Proof.core.run 2 s = .next { s with hum := humReg v, opsel := 8, inputs := .start :: rest })
end

