-- ==== Sys2Proof/Laws/Codec.lean ====
section
/-! SUPPORT. Lemmas about bytes, checksums, frames and the decoder. -/

namespace Sys2Proof.Machine

/-- R39: the Word rebuilt from its two bytes. -/
@[simp] theorem wordOf_hiByte_loByte (w : Word) : wordOf (hiByte w) (loByte w) = w := by
  unfold wordOf hiByte loByte
  apply BitVec.eq_of_getLsbD_eq
  intro i hi
  simp only [BitVec.getLsbD_append, BitVec.getLsbD_extractLsb']
  by_cases h : i < 8
  · simp [h]
  · have h2 : i - 8 < 8 := by omega
    have : 8 + (i - 8) = i := by omega
    simp [h, h2, this]

@[simp] theorem hiByte_wordOf (b0 b1 : Byte) : hiByte (wordOf b0 b1) = b0 := by
  unfold wordOf hiByte
  apply BitVec.eq_of_getLsbD_eq
  intro i hi
  have h : ¬(8 + i < 8) := by omega
  have h' : 8 + i - 8 = i := by omega
  rw [BitVec.getLsbD_extractLsb', BitVec.getLsbD_append]
  simp [hi, h']

@[simp] theorem loByte_wordOf (b0 b1 : Byte) : loByte (wordOf b0 b1) = b1 := by
  unfold wordOf loByte
  apply BitVec.eq_of_getLsbD_eq
  intro i hi
  rw [BitVec.getLsbD_extractLsb', BitVec.getLsbD_append]
  simp [hi]

/-- R80: what verifies is exactly the checksum. -/
theorem verify_iff (b0 b1 c : Byte) : verify b0 b1 c = true ↔ c = checksum b0 b1 := by
  unfold verify
  rw [beq_iff_eq]
  exact eq_comm

@[simp] theorem verify_wordChecksum (w : Word) : verify (hiByte w) (loByte w) (wordChecksum w) = true := by
  simp [verify_iff, wordChecksum]

/-- A block that verifies is the block of its Word (R56). -/
theorem block_of_verify {b0 b1 c : Byte} (h : verify b0 b1 c = true) : block (wordOf b0 b1) = [b0, b1, c] := by
  simp [block, wordChecksum, (verify_iff b0 b1 c).1 h]

@[simp] theorem encodeFrame_nil : encodeFrame [] = [] := rfl

@[simp] theorem encodeFrame_cons (w : Word) (ws : List Word) :
    encodeFrame (w :: ws) = hiByte w :: loByte w :: wordChecksum w :: encodeFrame ws := rfl

@[simp] theorem encodeFrame_length (ws : List Word) : (encodeFrame ws).length = 3 * ws.length := by
  induction ws with
  | nil => rfl
  | cons w ws ih => simp only [encodeFrame_cons, List.length_cons, ih]; omega

theorem encodeFrame_append (ws vs : List Word) : encodeFrame (ws ++ vs) = encodeFrame ws ++ encodeFrame vs := by
  induction ws with
  | nil => rfl
  | cons w ws ih => simp [ih]

/-- DECODE past one good block. -/
theorem decodeBlocks_good (w : Word) (rest : List Byte) :
    decodeBlocks (hiByte w :: loByte w :: wordChecksum w :: rest)
      = match decodeBlocks rest with
        | .ok ws => .ok (w :: ws)
        | .error e => .error e := by
  cases h : decodeBlocks rest <;> simp [decodeBlocks, h]

/-- DECODE stops at a block that does not verify (R89). -/
theorem decodeBlocks_bad {b0 b1 c : Byte} (rest : List Byte) (h : verify b0 b1 c = false) :
    decodeBlocks (b0 :: b1 :: c :: rest) = .error (.invalidChecksum (wordOf b0 b1) c) := by
  conv => lhs; unfold decodeBlocks
  simp [h]

/-- R91: DECODE looks at the blocks only when the length is right. -/
theorem decodeFrame_of_length {frame : List Byte} {n : Nat} (h : frame.length = 3 * n) :
    decodeFrame frame n = decodeBlocks frame := if_pos h

@[simp] theorem overwrite_length (bytes buffer : List Byte) (h : bytes.length ≤ buffer.length) :
    (overwrite bytes buffer).length = buffer.length := by
  simp [overwrite]; omega

@[simp] theorem overwrite_take (bytes buffer : List Byte) : (overwrite bytes buffer).take bytes.length = bytes := by
  simp [overwrite]

end Sys2Proof.Machine

namespace Sys2Proof
open Machine

/-- R65, R66: the select code of what `decodeSelect` answers, and no host operation at 9 and above. -/
theorem decodeSelect_ok {code : BitVec 4} {i : Instr} (h : decodeSelect code = .ok i) :
    selectCode i = some code ∧ i.isHostOp = true ∧ code.toNat ≤ 8 := by
  have all : ∀ c : BitVec 4, (match decodeSelect c with
      | .ok i => selectCode i == some c && i.isHostOp && decide (c.toNat ≤ 8)
      | .error _ => true) = true := by decide
  simpa [h, and_assoc] using all code

/-- R66: reserved select codes are 9 and above. -/
theorem decodeSelect_error_iff (code : BitVec 4) :
    decodeSelect code = .error .reservedSelect ↔ 9 ≤ code.toNat := by
  revert code
  decide

/-- R59: the opcode of a row finds the row. -/
@[simp] theorem cmdOfOpcode_opcode (cmd : WireCmd) : cmdOfOpcode (cmdRow cmd).opcode = some cmd := by
  cases cmd <;> rfl

/-- R59, R61: an opcode that finds a row is that row's. -/
theorem opcode_of_cmdOfOpcode {opc : Word} {cmd : WireCmd} (h : cmdOfOpcode opc = some cmd) :
    (cmdRow cmd).opcode = opc := by
  unfold cmdOfOpcode at h
  repeat' split at h
  all_goals first
    | (obtain rfl := Option.some.inj h; simp_all [cmdRow])
    | simp at h

end Sys2Proof
end

