-- ==== Sys2Proof/Laws/PerInstr.lean ====
section
/-! SUPPORT. A family of statements, one for each instruction: how long its encoding is. -/

namespace Sys2Proof.Laws.EncodeLength
open Sys2Proof

/-- The row of the wire command table that an instruction issues (R59); a host operation has none. -/
def rowOf : Instr → Option WireCmd
  | .cmdSerialId => some .serialId
  | .cmdFeatureSet => some .featureSet
  | .cmdInit => some .init
  | .cmdGetBaseline => some .getBaseline
  | .cmdSetBaseline _ _ _ _ => some .setBaseline
  | .cmdMeasure => some .measure
  | .cmdRawSignals => some .rawSignals
  | .cmdSetHumidity _ _ => some .setHumidity
  | .initialise | .initialiseBl | .getSerialId | .getFeatureSet | .measure | .getBaseline | .setBaseline
  | .getRawSignals | .setHumidity => none

/-- R45, R60, R65: a wire command's encoding has `2 + 3 * parameters` bytes, a host operation's one. -/
def Statement (i : Instr) : Prop :=
  (encode i).length = ((rowOf i).map Machine.writeLength).getD 1

theorem cmdSerialId : Statement .cmdSerialId := rfl
theorem cmdFeatureSet : Statement .cmdFeatureSet := rfl
theorem cmdInit : Statement .cmdInit := rfl
theorem cmdGetBaseline : Statement .cmdGetBaseline := rfl
theorem cmdSetBaseline (p : Word) (c : Byte) (q : Word) (d : Byte) : Statement (.cmdSetBaseline p c q d) := rfl
theorem cmdMeasure : Statement .cmdMeasure := rfl
theorem cmdRawSignals : Statement .cmdRawSignals := rfl
theorem cmdSetHumidity (p : Word) (c : Byte) : Statement (.cmdSetHumidity p c) := rfl
theorem initialise : Statement .initialise := rfl
theorem initialiseBl : Statement .initialiseBl := rfl
theorem getSerialId : Statement .getSerialId := rfl
theorem getFeatureSet : Statement .getFeatureSet := rfl
theorem measure : Statement .measure := rfl
theorem getBaseline : Statement .getBaseline := rfl
theorem setBaseline : Statement .setBaseline := rfl
theorem getRawSignals : Statement .getRawSignals := rfl
theorem setHumidity : Statement .setHumidity := rfl

end Sys2Proof.Laws.EncodeLength
end

