-- ==== Sys2Proof/Laws/State.lean ====
section
/-! SUPPORT. What each update of the state does to each field, one lemma a field, true by rfl: no later proof unfolds a
record update. `raise` and the host's register write depend on the error and on the number; their fields stand at the
end. -/

namespace Sys2Proof.Machine

/-! ### overrun -/

@[simp] theorem overrun_opsel (s : State) : (overrun s).opsel = s.opsel := rfl
@[simp] theorem overrun_arg0 (s : State) : (overrun s).arg0 = s.arg0 := rfl
@[simp] theorem overrun_arg1 (s : State) : (overrun s).arg1 = s.arg1 := rfl
@[simp] theorem overrun_hum (s : State) : (overrun s).hum = s.hum := rfl
@[simp] theorem overrun_busy (s : State) : (overrun s).busy = s.busy := rfl
@[simp] theorem overrun_done (s : State) : (overrun s).done = s.done := rfl
@[simp] theorem overrun_ovr (s : State) : (overrun s).ovr = true := rfl
@[simp] theorem overrun_lastv (s : State) : (overrun s).lastv = s.lastv := rfl
@[simp] theorem overrun_err (s : State) : (overrun s).err = s.err := rfl
@[simp] theorem overrun_errdata (s : State) : (overrun s).errdata = s.errdata := rfl
@[simp] theorem overrun_errcrc (s : State) : (overrun s).errcrc = s.errcrc := rfl
@[simp] theorem overrun_errval (s : State) : (overrun s).errval = s.errval := rfl
@[simp] theorem overrun_rescnt (s : State) : (overrun s).rescnt = s.rescnt := rfl
@[simp] theorem overrun_res0 (s : State) : (overrun s).res0 = s.res0 := rfl
@[simp] theorem overrun_res1 (s : State) : (overrun s).res1 = s.res1 := rfl
@[simp] theorem overrun_res2 (s : State) : (overrun s).res2 = s.res2 := rfl
@[simp] theorem overrun_lastEco2 (s : State) : (overrun s).lastEco2 = s.lastEco2 := rfl
@[simp] theorem overrun_lastTvoc (s : State) : (overrun s).lastTvoc = s.lastTvoc := rfl
@[simp] theorem overrun_phase (s : State) : (overrun s).phase = s.phase := rfl
@[simp] theorem overrun_op (s : State) : (overrun s).op = s.op := rfl
@[simp] theorem overrun_opc (s : State) : (overrun s).opc = s.opc := rfl
@[simp] theorem overrun_p0 (s : State) : (overrun s).p0 = s.p0 := rfl
@[simp] theorem overrun_p1 (s : State) : (overrun s).p1 = s.p1 := rfl
@[simp] theorem overrun_npar (s : State) : (overrun s).npar = s.npar := rfl
@[simp] theorem overrun_nresp (s : State) : (overrun s).nresp = s.nresp := rfl
@[simp] theorem overrun_settleMs (s : State) : (overrun s).settleMs = s.settleMs := rfl
@[simp] theorem overrun_crc (s : State) : (overrun s).crc = s.crc := rfl
@[simp] theorem overrun_txbuf (s : State) : (overrun s).txbuf = s.txbuf := rfl
@[simp] theorem overrun_txlen (s : State) : (overrun s).txlen = s.txlen := rfl
@[simp] theorem overrun_rxbuf (s : State) : (overrun s).rxbuf = s.rxbuf := rfl
@[simp] theorem overrun_rxlen (s : State) : (overrun s).rxlen = s.rxlen := rfl
@[simp] theorem overrun_blk (s : State) : (overrun s).blk = s.blk := rfl
@[simp] theorem overrun_timer (s : State) : (overrun s).timer = s.timer := rfl
@[simp] theorem overrun_pollcnt (s : State) : (overrun s).pollcnt = s.pollcnt := rfl
@[simp] theorem overrun_inputs (s : State) : (overrun s).inputs = s.inputs := rfl
@[simp] theorem overrun_trace (s : State) : (overrun s).trace = s.trace := rfl

/-! ### flagsOnAccept -/

@[simp] theorem flagsOnAccept_opsel (s : State) : (flagsOnAccept s).opsel = s.opsel := rfl
@[simp] theorem flagsOnAccept_arg0 (s : State) : (flagsOnAccept s).arg0 = s.arg0 := rfl
@[simp] theorem flagsOnAccept_arg1 (s : State) : (flagsOnAccept s).arg1 = s.arg1 := rfl
@[simp] theorem flagsOnAccept_hum (s : State) : (flagsOnAccept s).hum = s.hum := rfl
@[simp] theorem flagsOnAccept_busy (s : State) : (flagsOnAccept s).busy = true := rfl
@[simp] theorem flagsOnAccept_done (s : State) : (flagsOnAccept s).done = false := rfl
@[simp] theorem flagsOnAccept_ovr (s : State) : (flagsOnAccept s).ovr = s.ovr := rfl
@[simp] theorem flagsOnAccept_lastv (s : State) : (flagsOnAccept s).lastv = s.lastv := rfl
@[simp] theorem flagsOnAccept_err (s : State) : (flagsOnAccept s).err = 0 := rfl
@[simp] theorem flagsOnAccept_errdata (s : State) : (flagsOnAccept s).errdata = 0 := rfl
@[simp] theorem flagsOnAccept_errcrc (s : State) : (flagsOnAccept s).errcrc = 0 := rfl
@[simp] theorem flagsOnAccept_errval (s : State) : (flagsOnAccept s).errval = 0 := rfl
@[simp] theorem flagsOnAccept_rescnt (s : State) : (flagsOnAccept s).rescnt = s.rescnt := rfl
@[simp] theorem flagsOnAccept_res0 (s : State) : (flagsOnAccept s).res0 = s.res0 := rfl
@[simp] theorem flagsOnAccept_res1 (s : State) : (flagsOnAccept s).res1 = s.res1 := rfl
@[simp] theorem flagsOnAccept_res2 (s : State) : (flagsOnAccept s).res2 = s.res2 := rfl
@[simp] theorem flagsOnAccept_lastEco2 (s : State) : (flagsOnAccept s).lastEco2 = s.lastEco2 := rfl
@[simp] theorem flagsOnAccept_lastTvoc (s : State) : (flagsOnAccept s).lastTvoc = s.lastTvoc := rfl
@[simp] theorem flagsOnAccept_phase (s : State) : (flagsOnAccept s).phase = s.phase := rfl
@[simp] theorem flagsOnAccept_op (s : State) : (flagsOnAccept s).op = s.op := rfl
@[simp] theorem flagsOnAccept_opc (s : State) : (flagsOnAccept s).opc = s.opc := rfl
@[simp] theorem flagsOnAccept_p0 (s : State) : (flagsOnAccept s).p0 = s.p0 := rfl
@[simp] theorem flagsOnAccept_p1 (s : State) : (flagsOnAccept s).p1 = s.p1 := rfl
@[simp] theorem flagsOnAccept_npar (s : State) : (flagsOnAccept s).npar = s.npar := rfl
@[simp] theorem flagsOnAccept_nresp (s : State) : (flagsOnAccept s).nresp = s.nresp := rfl
@[simp] theorem flagsOnAccept_settleMs (s : State) : (flagsOnAccept s).settleMs = s.settleMs := rfl
@[simp] theorem flagsOnAccept_crc (s : State) : (flagsOnAccept s).crc = s.crc := rfl
@[simp] theorem flagsOnAccept_txbuf (s : State) : (flagsOnAccept s).txbuf = s.txbuf := rfl
@[simp] theorem flagsOnAccept_txlen (s : State) : (flagsOnAccept s).txlen = s.txlen := rfl
@[simp] theorem flagsOnAccept_rxbuf (s : State) : (flagsOnAccept s).rxbuf = s.rxbuf := rfl
@[simp] theorem flagsOnAccept_rxlen (s : State) : (flagsOnAccept s).rxlen = s.rxlen := rfl
@[simp] theorem flagsOnAccept_blk (s : State) : (flagsOnAccept s).blk = s.blk := rfl
@[simp] theorem flagsOnAccept_timer (s : State) : (flagsOnAccept s).timer = s.timer := rfl
@[simp] theorem flagsOnAccept_pollcnt (s : State) : (flagsOnAccept s).pollcnt = s.pollcnt := rfl
@[simp] theorem flagsOnAccept_inputs (s : State) : (flagsOnAccept s).inputs = s.inputs := rfl
@[simp] theorem flagsOnAccept_trace (s : State) : (flagsOnAccept s).trace = s.trace := rfl

/-! ### flagsOnEnd -/

@[simp] theorem flagsOnEnd_opsel (s : State) : (flagsOnEnd s).opsel = s.opsel := rfl
@[simp] theorem flagsOnEnd_arg0 (s : State) : (flagsOnEnd s).arg0 = s.arg0 := rfl
@[simp] theorem flagsOnEnd_arg1 (s : State) : (flagsOnEnd s).arg1 = s.arg1 := rfl
@[simp] theorem flagsOnEnd_hum (s : State) : (flagsOnEnd s).hum = s.hum := rfl
@[simp] theorem flagsOnEnd_busy (s : State) : (flagsOnEnd s).busy = false := rfl
@[simp] theorem flagsOnEnd_done (s : State) : (flagsOnEnd s).done = true := rfl
@[simp] theorem flagsOnEnd_ovr (s : State) : (flagsOnEnd s).ovr = s.ovr := rfl
@[simp] theorem flagsOnEnd_lastv (s : State) : (flagsOnEnd s).lastv = s.lastv := rfl
@[simp] theorem flagsOnEnd_err (s : State) : (flagsOnEnd s).err = s.err := rfl
@[simp] theorem flagsOnEnd_errdata (s : State) : (flagsOnEnd s).errdata = s.errdata := rfl
@[simp] theorem flagsOnEnd_errcrc (s : State) : (flagsOnEnd s).errcrc = s.errcrc := rfl
@[simp] theorem flagsOnEnd_errval (s : State) : (flagsOnEnd s).errval = s.errval := rfl
@[simp] theorem flagsOnEnd_rescnt (s : State) : (flagsOnEnd s).rescnt = s.rescnt := rfl
@[simp] theorem flagsOnEnd_res0 (s : State) : (flagsOnEnd s).res0 = s.res0 := rfl
@[simp] theorem flagsOnEnd_res1 (s : State) : (flagsOnEnd s).res1 = s.res1 := rfl
@[simp] theorem flagsOnEnd_res2 (s : State) : (flagsOnEnd s).res2 = s.res2 := rfl
@[simp] theorem flagsOnEnd_lastEco2 (s : State) : (flagsOnEnd s).lastEco2 = s.lastEco2 := rfl
@[simp] theorem flagsOnEnd_lastTvoc (s : State) : (flagsOnEnd s).lastTvoc = s.lastTvoc := rfl
@[simp] theorem flagsOnEnd_phase (s : State) : (flagsOnEnd s).phase = s.phase := rfl
@[simp] theorem flagsOnEnd_op (s : State) : (flagsOnEnd s).op = s.op := rfl
@[simp] theorem flagsOnEnd_opc (s : State) : (flagsOnEnd s).opc = s.opc := rfl
@[simp] theorem flagsOnEnd_p0 (s : State) : (flagsOnEnd s).p0 = s.p0 := rfl
@[simp] theorem flagsOnEnd_p1 (s : State) : (flagsOnEnd s).p1 = s.p1 := rfl
@[simp] theorem flagsOnEnd_npar (s : State) : (flagsOnEnd s).npar = s.npar := rfl
@[simp] theorem flagsOnEnd_nresp (s : State) : (flagsOnEnd s).nresp = s.nresp := rfl
@[simp] theorem flagsOnEnd_settleMs (s : State) : (flagsOnEnd s).settleMs = s.settleMs := rfl
@[simp] theorem flagsOnEnd_crc (s : State) : (flagsOnEnd s).crc = s.crc := rfl
@[simp] theorem flagsOnEnd_txbuf (s : State) : (flagsOnEnd s).txbuf = s.txbuf := rfl
@[simp] theorem flagsOnEnd_txlen (s : State) : (flagsOnEnd s).txlen = s.txlen := rfl
@[simp] theorem flagsOnEnd_rxbuf (s : State) : (flagsOnEnd s).rxbuf = s.rxbuf := rfl
@[simp] theorem flagsOnEnd_rxlen (s : State) : (flagsOnEnd s).rxlen = s.rxlen := rfl
@[simp] theorem flagsOnEnd_blk (s : State) : (flagsOnEnd s).blk = s.blk := rfl
@[simp] theorem flagsOnEnd_timer (s : State) : (flagsOnEnd s).timer = s.timer := rfl
@[simp] theorem flagsOnEnd_pollcnt (s : State) : (flagsOnEnd s).pollcnt = s.pollcnt := rfl
@[simp] theorem flagsOnEnd_inputs (s : State) : (flagsOnEnd s).inputs = s.inputs := rfl
@[simp] theorem flagsOnEnd_trace (s : State) : (flagsOnEnd s).trace = s.trace := rfl

/-! ### accept -/

@[simp] theorem accept_opsel (code : BitVec 4) (s : State) : (accept code s).opsel = s.opsel := rfl
@[simp] theorem accept_arg0 (code : BitVec 4) (s : State) : (accept code s).arg0 = s.arg0 := rfl
@[simp] theorem accept_arg1 (code : BitVec 4) (s : State) : (accept code s).arg1 = s.arg1 := rfl
@[simp] theorem accept_hum (code : BitVec 4) (s : State) : (accept code s).hum = s.hum := rfl
@[simp] theorem accept_busy (code : BitVec 4) (s : State) : (accept code s).busy = true := rfl
@[simp] theorem accept_done (code : BitVec 4) (s : State) : (accept code s).done = false := rfl
@[simp] theorem accept_ovr (code : BitVec 4) (s : State) : (accept code s).ovr = s.ovr := rfl
@[simp] theorem accept_lastv (code : BitVec 4) (s : State) : (accept code s).lastv = s.lastv := rfl
@[simp] theorem accept_err (code : BitVec 4) (s : State) : (accept code s).err = 0 := rfl
@[simp] theorem accept_errdata (code : BitVec 4) (s : State) : (accept code s).errdata = 0 := rfl
@[simp] theorem accept_errcrc (code : BitVec 4) (s : State) : (accept code s).errcrc = 0 := rfl
@[simp] theorem accept_errval (code : BitVec 4) (s : State) : (accept code s).errval = 0 := rfl
@[simp] theorem accept_rescnt (code : BitVec 4) (s : State) : (accept code s).rescnt = s.rescnt := rfl
@[simp] theorem accept_res0 (code : BitVec 4) (s : State) : (accept code s).res0 = s.res0 := rfl
@[simp] theorem accept_res1 (code : BitVec 4) (s : State) : (accept code s).res1 = s.res1 := rfl
@[simp] theorem accept_res2 (code : BitVec 4) (s : State) : (accept code s).res2 = s.res2 := rfl
@[simp] theorem accept_lastEco2 (code : BitVec 4) (s : State) : (accept code s).lastEco2 = s.lastEco2 := rfl
@[simp] theorem accept_lastTvoc (code : BitVec 4) (s : State) : (accept code s).lastTvoc = s.lastTvoc := rfl
@[simp] theorem accept_phase (code : BitVec 4) (s : State) : (accept code s).phase = s.phase := rfl
@[simp] theorem accept_op (code : BitVec 4) (s : State) : (accept code s).op = code := rfl
@[simp] theorem accept_opc (code : BitVec 4) (s : State) : (accept code s).opc = s.opc := rfl
@[simp] theorem accept_p0 (code : BitVec 4) (s : State) : (accept code s).p0 = s.p0 := rfl
@[simp] theorem accept_p1 (code : BitVec 4) (s : State) : (accept code s).p1 = s.p1 := rfl
@[simp] theorem accept_npar (code : BitVec 4) (s : State) : (accept code s).npar = s.npar := rfl
@[simp] theorem accept_nresp (code : BitVec 4) (s : State) : (accept code s).nresp = s.nresp := rfl
@[simp] theorem accept_settleMs (code : BitVec 4) (s : State) : (accept code s).settleMs = s.settleMs := rfl
@[simp] theorem accept_crc (code : BitVec 4) (s : State) : (accept code s).crc = s.crc := rfl
@[simp] theorem accept_txbuf (code : BitVec 4) (s : State) : (accept code s).txbuf = s.txbuf := rfl
@[simp] theorem accept_txlen (code : BitVec 4) (s : State) : (accept code s).txlen = s.txlen := rfl
@[simp] theorem accept_rxbuf (code : BitVec 4) (s : State) : (accept code s).rxbuf = s.rxbuf := rfl
@[simp] theorem accept_rxlen (code : BitVec 4) (s : State) : (accept code s).rxlen = s.rxlen := rfl
@[simp] theorem accept_blk (code : BitVec 4) (s : State) : (accept code s).blk = s.blk := rfl
@[simp] theorem accept_timer (code : BitVec 4) (s : State) : (accept code s).timer = s.timer := rfl
@[simp] theorem accept_pollcnt (code : BitVec 4) (s : State) : (accept code s).pollcnt = 0 := rfl
@[simp] theorem accept_inputs (code : BitVec 4) (s : State) : (accept code s).inputs = s.inputs := rfl
@[simp] theorem accept_trace (code : BitVec 4) (s : State) : (accept code s).trace = s.trace := rfl

/-! ### finish -/

@[simp] theorem finish_opsel (k : BitVec 2) (s : State) : (finish k s).opsel = s.opsel := rfl
@[simp] theorem finish_arg0 (k : BitVec 2) (s : State) : (finish k s).arg0 = s.arg0 := rfl
@[simp] theorem finish_arg1 (k : BitVec 2) (s : State) : (finish k s).arg1 = s.arg1 := rfl
@[simp] theorem finish_hum (k : BitVec 2) (s : State) : (finish k s).hum = s.hum := rfl
@[simp] theorem finish_busy (k : BitVec 2) (s : State) : (finish k s).busy = false := rfl
@[simp] theorem finish_done (k : BitVec 2) (s : State) : (finish k s).done = true := rfl
@[simp] theorem finish_ovr (k : BitVec 2) (s : State) : (finish k s).ovr = s.ovr := rfl
@[simp] theorem finish_lastv (k : BitVec 2) (s : State) : (finish k s).lastv = s.lastv := rfl
@[simp] theorem finish_err (k : BitVec 2) (s : State) : (finish k s).err = s.err := rfl
@[simp] theorem finish_errdata (k : BitVec 2) (s : State) : (finish k s).errdata = s.errdata := rfl
@[simp] theorem finish_errcrc (k : BitVec 2) (s : State) : (finish k s).errcrc = s.errcrc := rfl
@[simp] theorem finish_errval (k : BitVec 2) (s : State) : (finish k s).errval = s.errval := rfl
@[simp] theorem finish_rescnt (k : BitVec 2) (s : State) : (finish k s).rescnt = k := rfl
@[simp] theorem finish_res0 (k : BitVec 2) (s : State) : (finish k s).res0 = s.res0 := rfl
@[simp] theorem finish_res1 (k : BitVec 2) (s : State) : (finish k s).res1 = s.res1 := rfl
@[simp] theorem finish_res2 (k : BitVec 2) (s : State) : (finish k s).res2 = s.res2 := rfl
@[simp] theorem finish_lastEco2 (k : BitVec 2) (s : State) : (finish k s).lastEco2 = s.lastEco2 := rfl
@[simp] theorem finish_lastTvoc (k : BitVec 2) (s : State) : (finish k s).lastTvoc = s.lastTvoc := rfl
@[simp] theorem finish_phase (k : BitVec 2) (s : State) : (finish k s).phase = .idle := rfl
@[simp] theorem finish_op (k : BitVec 2) (s : State) : (finish k s).op = s.op := rfl
@[simp] theorem finish_opc (k : BitVec 2) (s : State) : (finish k s).opc = s.opc := rfl
@[simp] theorem finish_p0 (k : BitVec 2) (s : State) : (finish k s).p0 = s.p0 := rfl
@[simp] theorem finish_p1 (k : BitVec 2) (s : State) : (finish k s).p1 = s.p1 := rfl
@[simp] theorem finish_npar (k : BitVec 2) (s : State) : (finish k s).npar = s.npar := rfl
@[simp] theorem finish_nresp (k : BitVec 2) (s : State) : (finish k s).nresp = s.nresp := rfl
@[simp] theorem finish_settleMs (k : BitVec 2) (s : State) : (finish k s).settleMs = s.settleMs := rfl
@[simp] theorem finish_crc (k : BitVec 2) (s : State) : (finish k s).crc = s.crc := rfl
@[simp] theorem finish_txbuf (k : BitVec 2) (s : State) : (finish k s).txbuf = s.txbuf := rfl
@[simp] theorem finish_txlen (k : BitVec 2) (s : State) : (finish k s).txlen = s.txlen := rfl
@[simp] theorem finish_rxbuf (k : BitVec 2) (s : State) : (finish k s).rxbuf = s.rxbuf := rfl
@[simp] theorem finish_rxlen (k : BitVec 2) (s : State) : (finish k s).rxlen = s.rxlen := rfl
@[simp] theorem finish_blk (k : BitVec 2) (s : State) : (finish k s).blk = s.blk := rfl
@[simp] theorem finish_timer (k : BitVec 2) (s : State) : (finish k s).timer = s.timer := rfl
@[simp] theorem finish_pollcnt (k : BitVec 2) (s : State) : (finish k s).pollcnt = s.pollcnt := rfl
@[simp] theorem finish_inputs (k : BitVec 2) (s : State) : (finish k s).inputs = s.inputs := rfl
@[simp] theorem finish_trace (k : BitVec 2) (s : State) : (finish k s).trace = s.trace := rfl

/-! ### storeResults -/

@[simp] theorem storeResults_opsel (ws : List Word) (s : State) : (storeResults ws s).opsel = s.opsel := rfl
@[simp] theorem storeResults_arg0 (ws : List Word) (s : State) : (storeResults ws s).arg0 = s.arg0 := rfl
@[simp] theorem storeResults_arg1 (ws : List Word) (s : State) : (storeResults ws s).arg1 = s.arg1 := rfl
@[simp] theorem storeResults_hum (ws : List Word) (s : State) : (storeResults ws s).hum = s.hum := rfl
@[simp] theorem storeResults_busy (ws : List Word) (s : State) : (storeResults ws s).busy = s.busy := rfl
@[simp] theorem storeResults_done (ws : List Word) (s : State) : (storeResults ws s).done = s.done := rfl
@[simp] theorem storeResults_ovr (ws : List Word) (s : State) : (storeResults ws s).ovr = s.ovr := rfl
@[simp] theorem storeResults_lastv (ws : List Word) (s : State) : (storeResults ws s).lastv = s.lastv := rfl
@[simp] theorem storeResults_err (ws : List Word) (s : State) : (storeResults ws s).err = s.err := rfl
@[simp] theorem storeResults_errdata (ws : List Word) (s : State) : (storeResults ws s).errdata = s.errdata := rfl
@[simp] theorem storeResults_errcrc (ws : List Word) (s : State) : (storeResults ws s).errcrc = s.errcrc := rfl
@[simp] theorem storeResults_errval (ws : List Word) (s : State) : (storeResults ws s).errval = s.errval := rfl
@[simp] theorem storeResults_rescnt (ws : List Word) (s : State) : (storeResults ws s).rescnt = s.rescnt := rfl
@[simp] theorem storeResults_res0 (ws : List Word) (s : State) : (storeResults ws s).res0 = ws[0]?.getD s.res0 := rfl
@[simp] theorem storeResults_res1 (ws : List Word) (s : State) : (storeResults ws s).res1 = ws[1]?.getD s.res1 := rfl
@[simp] theorem storeResults_res2 (ws : List Word) (s : State) : (storeResults ws s).res2 = ws[2]?.getD s.res2 := rfl
@[simp] theorem storeResults_lastEco2 (ws : List Word) (s : State) : (storeResults ws s).lastEco2 = s.lastEco2 := rfl
@[simp] theorem storeResults_lastTvoc (ws : List Word) (s : State) : (storeResults ws s).lastTvoc = s.lastTvoc := rfl
@[simp] theorem storeResults_phase (ws : List Word) (s : State) : (storeResults ws s).phase = s.phase := rfl
@[simp] theorem storeResults_op (ws : List Word) (s : State) : (storeResults ws s).op = s.op := rfl
@[simp] theorem storeResults_opc (ws : List Word) (s : State) : (storeResults ws s).opc = s.opc := rfl
@[simp] theorem storeResults_p0 (ws : List Word) (s : State) : (storeResults ws s).p0 = s.p0 := rfl
@[simp] theorem storeResults_p1 (ws : List Word) (s : State) : (storeResults ws s).p1 = s.p1 := rfl
@[simp] theorem storeResults_npar (ws : List Word) (s : State) : (storeResults ws s).npar = s.npar := rfl
@[simp] theorem storeResults_nresp (ws : List Word) (s : State) : (storeResults ws s).nresp = s.nresp := rfl
@[simp] theorem storeResults_settleMs (ws : List Word) (s : State) : (storeResults ws s).settleMs = s.settleMs := rfl
@[simp] theorem storeResults_crc (ws : List Word) (s : State) : (storeResults ws s).crc = s.crc := rfl
@[simp] theorem storeResults_txbuf (ws : List Word) (s : State) : (storeResults ws s).txbuf = s.txbuf := rfl
@[simp] theorem storeResults_txlen (ws : List Word) (s : State) : (storeResults ws s).txlen = s.txlen := rfl
@[simp] theorem storeResults_rxbuf (ws : List Word) (s : State) : (storeResults ws s).rxbuf = s.rxbuf := rfl
@[simp] theorem storeResults_rxlen (ws : List Word) (s : State) : (storeResults ws s).rxlen = s.rxlen := rfl
@[simp] theorem storeResults_blk (ws : List Word) (s : State) : (storeResults ws s).blk = s.blk := rfl
@[simp] theorem storeResults_timer (ws : List Word) (s : State) : (storeResults ws s).timer = s.timer := rfl
@[simp] theorem storeResults_pollcnt (ws : List Word) (s : State) : (storeResults ws s).pollcnt = s.pollcnt := rfl
@[simp] theorem storeResults_inputs (ws : List Word) (s : State) : (storeResults ws s).inputs = s.inputs := rfl
@[simp] theorem storeResults_trace (ws : List Word) (s : State) : (storeResults ws s).trace = s.trace := rfl

/-! ### storeMeasurement -/

@[simp] theorem storeMeasurement_opsel (ws : List Word) (s : State) : (storeMeasurement ws s).opsel = s.opsel := rfl
@[simp] theorem storeMeasurement_arg0 (ws : List Word) (s : State) : (storeMeasurement ws s).arg0 = s.arg0 := rfl
@[simp] theorem storeMeasurement_arg1 (ws : List Word) (s : State) : (storeMeasurement ws s).arg1 = s.arg1 := rfl
@[simp] theorem storeMeasurement_hum (ws : List Word) (s : State) : (storeMeasurement ws s).hum = s.hum := rfl
@[simp] theorem storeMeasurement_busy (ws : List Word) (s : State) : (storeMeasurement ws s).busy = s.busy := rfl
@[simp] theorem storeMeasurement_done (ws : List Word) (s : State) : (storeMeasurement ws s).done = s.done := rfl
@[simp] theorem storeMeasurement_ovr (ws : List Word) (s : State) : (storeMeasurement ws s).ovr = s.ovr := rfl
@[simp] theorem storeMeasurement_lastv (ws : List Word) (s : State) : (storeMeasurement ws s).lastv = true := rfl
@[simp] theorem storeMeasurement_err (ws : List Word) (s : State) : (storeMeasurement ws s).err = s.err := rfl
@[simp] theorem storeMeasurement_errdata (ws : List Word) (s : State) : (storeMeasurement ws s).errdata = s.errdata := rfl
@[simp] theorem storeMeasurement_errcrc (ws : List Word) (s : State) : (storeMeasurement ws s).errcrc = s.errcrc := rfl
@[simp] theorem storeMeasurement_errval (ws : List Word) (s : State) : (storeMeasurement ws s).errval = s.errval := rfl
@[simp] theorem storeMeasurement_rescnt (ws : List Word) (s : State) : (storeMeasurement ws s).rescnt = s.rescnt := rfl
@[simp] theorem storeMeasurement_res0 (ws : List Word) (s : State) : (storeMeasurement ws s).res0 = s.res0 := rfl
@[simp] theorem storeMeasurement_res1 (ws : List Word) (s : State) : (storeMeasurement ws s).res1 = s.res1 := rfl
@[simp] theorem storeMeasurement_res2 (ws : List Word) (s : State) : (storeMeasurement ws s).res2 = s.res2 := rfl
@[simp] theorem storeMeasurement_lastEco2 (ws : List Word) (s : State) : (storeMeasurement ws s).lastEco2 = ws[0]?.getD s.lastEco2 := rfl
@[simp] theorem storeMeasurement_lastTvoc (ws : List Word) (s : State) : (storeMeasurement ws s).lastTvoc = ws[1]?.getD s.lastTvoc := rfl
@[simp] theorem storeMeasurement_phase (ws : List Word) (s : State) : (storeMeasurement ws s).phase = s.phase := rfl
@[simp] theorem storeMeasurement_op (ws : List Word) (s : State) : (storeMeasurement ws s).op = s.op := rfl
@[simp] theorem storeMeasurement_opc (ws : List Word) (s : State) : (storeMeasurement ws s).opc = s.opc := rfl
@[simp] theorem storeMeasurement_p0 (ws : List Word) (s : State) : (storeMeasurement ws s).p0 = s.p0 := rfl
@[simp] theorem storeMeasurement_p1 (ws : List Word) (s : State) : (storeMeasurement ws s).p1 = s.p1 := rfl
@[simp] theorem storeMeasurement_npar (ws : List Word) (s : State) : (storeMeasurement ws s).npar = s.npar := rfl
@[simp] theorem storeMeasurement_nresp (ws : List Word) (s : State) : (storeMeasurement ws s).nresp = s.nresp := rfl
@[simp] theorem storeMeasurement_settleMs (ws : List Word) (s : State) : (storeMeasurement ws s).settleMs = s.settleMs := rfl
@[simp] theorem storeMeasurement_crc (ws : List Word) (s : State) : (storeMeasurement ws s).crc = s.crc := rfl
@[simp] theorem storeMeasurement_txbuf (ws : List Word) (s : State) : (storeMeasurement ws s).txbuf = s.txbuf := rfl
@[simp] theorem storeMeasurement_txlen (ws : List Word) (s : State) : (storeMeasurement ws s).txlen = s.txlen := rfl
@[simp] theorem storeMeasurement_rxbuf (ws : List Word) (s : State) : (storeMeasurement ws s).rxbuf = s.rxbuf := rfl
@[simp] theorem storeMeasurement_rxlen (ws : List Word) (s : State) : (storeMeasurement ws s).rxlen = s.rxlen := rfl
@[simp] theorem storeMeasurement_blk (ws : List Word) (s : State) : (storeMeasurement ws s).blk = s.blk := rfl
@[simp] theorem storeMeasurement_timer (ws : List Word) (s : State) : (storeMeasurement ws s).timer = s.timer := rfl
@[simp] theorem storeMeasurement_pollcnt (ws : List Word) (s : State) : (storeMeasurement ws s).pollcnt = s.pollcnt := rfl
@[simp] theorem storeMeasurement_inputs (ws : List Word) (s : State) : (storeMeasurement ws s).inputs = s.inputs := rfl
@[simp] theorem storeMeasurement_trace (ws : List Word) (s : State) : (storeMeasurement ws s).trace = s.trace := rfl

/-! ### loadCommand -/

@[simp] theorem loadCommand_opsel (cmd : WireCmd) (s : State) : (loadCommand cmd s).opsel = s.opsel := rfl
@[simp] theorem loadCommand_arg0 (cmd : WireCmd) (s : State) : (loadCommand cmd s).arg0 = s.arg0 := rfl
@[simp] theorem loadCommand_arg1 (cmd : WireCmd) (s : State) : (loadCommand cmd s).arg1 = s.arg1 := rfl
@[simp] theorem loadCommand_hum (cmd : WireCmd) (s : State) : (loadCommand cmd s).hum = s.hum := rfl
@[simp] theorem loadCommand_busy (cmd : WireCmd) (s : State) : (loadCommand cmd s).busy = s.busy := rfl
@[simp] theorem loadCommand_done (cmd : WireCmd) (s : State) : (loadCommand cmd s).done = s.done := rfl
@[simp] theorem loadCommand_ovr (cmd : WireCmd) (s : State) : (loadCommand cmd s).ovr = s.ovr := rfl
@[simp] theorem loadCommand_lastv (cmd : WireCmd) (s : State) : (loadCommand cmd s).lastv = s.lastv := rfl
@[simp] theorem loadCommand_err (cmd : WireCmd) (s : State) : (loadCommand cmd s).err = s.err := rfl
@[simp] theorem loadCommand_errdata (cmd : WireCmd) (s : State) : (loadCommand cmd s).errdata = s.errdata := rfl
@[simp] theorem loadCommand_errcrc (cmd : WireCmd) (s : State) : (loadCommand cmd s).errcrc = s.errcrc := rfl
@[simp] theorem loadCommand_errval (cmd : WireCmd) (s : State) : (loadCommand cmd s).errval = s.errval := rfl
@[simp] theorem loadCommand_rescnt (cmd : WireCmd) (s : State) : (loadCommand cmd s).rescnt = s.rescnt := rfl
@[simp] theorem loadCommand_res0 (cmd : WireCmd) (s : State) : (loadCommand cmd s).res0 = s.res0 := rfl
@[simp] theorem loadCommand_res1 (cmd : WireCmd) (s : State) : (loadCommand cmd s).res1 = s.res1 := rfl
@[simp] theorem loadCommand_res2 (cmd : WireCmd) (s : State) : (loadCommand cmd s).res2 = s.res2 := rfl
@[simp] theorem loadCommand_lastEco2 (cmd : WireCmd) (s : State) : (loadCommand cmd s).lastEco2 = s.lastEco2 := rfl
@[simp] theorem loadCommand_lastTvoc (cmd : WireCmd) (s : State) : (loadCommand cmd s).lastTvoc = s.lastTvoc := rfl
@[simp] theorem loadCommand_phase (cmd : WireCmd) (s : State) : (loadCommand cmd s).phase = .build := rfl
@[simp] theorem loadCommand_op (cmd : WireCmd) (s : State) : (loadCommand cmd s).op = s.op := rfl
@[simp] theorem loadCommand_opc (cmd : WireCmd) (s : State) : (loadCommand cmd s).opc = (cmdRow cmd).opcode := rfl
@[simp] theorem loadCommand_p0 (cmd : WireCmd) (s : State) : (loadCommand cmd s).p0 = s.p0 := rfl
@[simp] theorem loadCommand_p1 (cmd : WireCmd) (s : State) : (loadCommand cmd s).p1 = s.p1 := rfl
@[simp] theorem loadCommand_npar (cmd : WireCmd) (s : State) : (loadCommand cmd s).npar = (cmdRow cmd).params := rfl
@[simp] theorem loadCommand_nresp (cmd : WireCmd) (s : State) : (loadCommand cmd s).nresp = (cmdRow cmd).words := rfl
@[simp] theorem loadCommand_settleMs (cmd : WireCmd) (s : State) : (loadCommand cmd s).settleMs = (cmdRow cmd).settle := rfl
@[simp] theorem loadCommand_crc (cmd : WireCmd) (s : State) : (loadCommand cmd s).crc = s.crc := rfl
@[simp] theorem loadCommand_txbuf (cmd : WireCmd) (s : State) : (loadCommand cmd s).txbuf = s.txbuf := rfl
@[simp] theorem loadCommand_txlen (cmd : WireCmd) (s : State) : (loadCommand cmd s).txlen = s.txlen := rfl
@[simp] theorem loadCommand_rxbuf (cmd : WireCmd) (s : State) : (loadCommand cmd s).rxbuf = s.rxbuf := rfl
@[simp] theorem loadCommand_rxlen (cmd : WireCmd) (s : State) : (loadCommand cmd s).rxlen = s.rxlen := rfl
@[simp] theorem loadCommand_blk (cmd : WireCmd) (s : State) : (loadCommand cmd s).blk = s.blk := rfl
@[simp] theorem loadCommand_timer (cmd : WireCmd) (s : State) : (loadCommand cmd s).timer = s.timer := rfl
@[simp] theorem loadCommand_pollcnt (cmd : WireCmd) (s : State) : (loadCommand cmd s).pollcnt = s.pollcnt := rfl
@[simp] theorem loadCommand_inputs (cmd : WireCmd) (s : State) : (loadCommand cmd s).inputs = s.inputs := rfl
@[simp] theorem loadCommand_trace (cmd : WireCmd) (s : State) : (loadCommand cmd s).trace = s.trace := rfl

/-! ### loadBaseline -/

@[simp] theorem loadBaseline_opsel (s : State) : (loadBaseline s).opsel = s.opsel := rfl
@[simp] theorem loadBaseline_arg0 (s : State) : (loadBaseline s).arg0 = s.arg0 := rfl
@[simp] theorem loadBaseline_arg1 (s : State) : (loadBaseline s).arg1 = s.arg1 := rfl
@[simp] theorem loadBaseline_hum (s : State) : (loadBaseline s).hum = s.hum := rfl
@[simp] theorem loadBaseline_busy (s : State) : (loadBaseline s).busy = s.busy := rfl
@[simp] theorem loadBaseline_done (s : State) : (loadBaseline s).done = s.done := rfl
@[simp] theorem loadBaseline_ovr (s : State) : (loadBaseline s).ovr = s.ovr := rfl
@[simp] theorem loadBaseline_lastv (s : State) : (loadBaseline s).lastv = s.lastv := rfl
@[simp] theorem loadBaseline_err (s : State) : (loadBaseline s).err = s.err := rfl
@[simp] theorem loadBaseline_errdata (s : State) : (loadBaseline s).errdata = s.errdata := rfl
@[simp] theorem loadBaseline_errcrc (s : State) : (loadBaseline s).errcrc = s.errcrc := rfl
@[simp] theorem loadBaseline_errval (s : State) : (loadBaseline s).errval = s.errval := rfl
@[simp] theorem loadBaseline_rescnt (s : State) : (loadBaseline s).rescnt = s.rescnt := rfl
@[simp] theorem loadBaseline_res0 (s : State) : (loadBaseline s).res0 = s.res0 := rfl
@[simp] theorem loadBaseline_res1 (s : State) : (loadBaseline s).res1 = s.res1 := rfl
@[simp] theorem loadBaseline_res2 (s : State) : (loadBaseline s).res2 = s.res2 := rfl
@[simp] theorem loadBaseline_lastEco2 (s : State) : (loadBaseline s).lastEco2 = s.lastEco2 := rfl
@[simp] theorem loadBaseline_lastTvoc (s : State) : (loadBaseline s).lastTvoc = s.lastTvoc := rfl
@[simp] theorem loadBaseline_phase (s : State) : (loadBaseline s).phase = s.phase := rfl
@[simp] theorem loadBaseline_op (s : State) : (loadBaseline s).op = s.op := rfl
@[simp] theorem loadBaseline_opc (s : State) : (loadBaseline s).opc = s.opc := rfl
@[simp] theorem loadBaseline_p0 (s : State) : (loadBaseline s).p0 = s.arg1 := rfl
@[simp] theorem loadBaseline_p1 (s : State) : (loadBaseline s).p1 = s.arg0 := rfl
@[simp] theorem loadBaseline_npar (s : State) : (loadBaseline s).npar = s.npar := rfl
@[simp] theorem loadBaseline_nresp (s : State) : (loadBaseline s).nresp = s.nresp := rfl
@[simp] theorem loadBaseline_settleMs (s : State) : (loadBaseline s).settleMs = s.settleMs := rfl
@[simp] theorem loadBaseline_crc (s : State) : (loadBaseline s).crc = s.crc := rfl
@[simp] theorem loadBaseline_txbuf (s : State) : (loadBaseline s).txbuf = s.txbuf := rfl
@[simp] theorem loadBaseline_txlen (s : State) : (loadBaseline s).txlen = s.txlen := rfl
@[simp] theorem loadBaseline_rxbuf (s : State) : (loadBaseline s).rxbuf = s.rxbuf := rfl
@[simp] theorem loadBaseline_rxlen (s : State) : (loadBaseline s).rxlen = s.rxlen := rfl
@[simp] theorem loadBaseline_blk (s : State) : (loadBaseline s).blk = s.blk := rfl
@[simp] theorem loadBaseline_timer (s : State) : (loadBaseline s).timer = s.timer := rfl
@[simp] theorem loadBaseline_pollcnt (s : State) : (loadBaseline s).pollcnt = s.pollcnt := rfl
@[simp] theorem loadBaseline_inputs (s : State) : (loadBaseline s).inputs = s.inputs := rfl
@[simp] theorem loadBaseline_trace (s : State) : (loadBaseline s).trace = s.trace := rfl

/-! ### loadHumidity -/

@[simp] theorem loadHumidity_opsel (s : State) : (loadHumidity s).opsel = s.opsel := rfl
@[simp] theorem loadHumidity_arg0 (s : State) : (loadHumidity s).arg0 = s.arg0 := rfl
@[simp] theorem loadHumidity_arg1 (s : State) : (loadHumidity s).arg1 = s.arg1 := rfl
@[simp] theorem loadHumidity_hum (s : State) : (loadHumidity s).hum = s.hum := rfl
@[simp] theorem loadHumidity_busy (s : State) : (loadHumidity s).busy = s.busy := rfl
@[simp] theorem loadHumidity_done (s : State) : (loadHumidity s).done = s.done := rfl
@[simp] theorem loadHumidity_ovr (s : State) : (loadHumidity s).ovr = s.ovr := rfl
@[simp] theorem loadHumidity_lastv (s : State) : (loadHumidity s).lastv = s.lastv := rfl
@[simp] theorem loadHumidity_err (s : State) : (loadHumidity s).err = s.err := rfl
@[simp] theorem loadHumidity_errdata (s : State) : (loadHumidity s).errdata = s.errdata := rfl
@[simp] theorem loadHumidity_errcrc (s : State) : (loadHumidity s).errcrc = s.errcrc := rfl
@[simp] theorem loadHumidity_errval (s : State) : (loadHumidity s).errval = s.errval := rfl
@[simp] theorem loadHumidity_rescnt (s : State) : (loadHumidity s).rescnt = s.rescnt := rfl
@[simp] theorem loadHumidity_res0 (s : State) : (loadHumidity s).res0 = s.res0 := rfl
@[simp] theorem loadHumidity_res1 (s : State) : (loadHumidity s).res1 = s.res1 := rfl
@[simp] theorem loadHumidity_res2 (s : State) : (loadHumidity s).res2 = s.res2 := rfl
@[simp] theorem loadHumidity_lastEco2 (s : State) : (loadHumidity s).lastEco2 = s.lastEco2 := rfl
@[simp] theorem loadHumidity_lastTvoc (s : State) : (loadHumidity s).lastTvoc = s.lastTvoc := rfl
@[simp] theorem loadHumidity_phase (s : State) : (loadHumidity s).phase = s.phase := rfl
@[simp] theorem loadHumidity_op (s : State) : (loadHumidity s).op = s.op := rfl
@[simp] theorem loadHumidity_opc (s : State) : (loadHumidity s).opc = s.opc := rfl
@[simp] theorem loadHumidity_p0 (s : State) : (loadHumidity s).p0 = s.hum.setWidth 16 := rfl
@[simp] theorem loadHumidity_p1 (s : State) : (loadHumidity s).p1 = s.p1 := rfl
@[simp] theorem loadHumidity_npar (s : State) : (loadHumidity s).npar = s.npar := rfl
@[simp] theorem loadHumidity_nresp (s : State) : (loadHumidity s).nresp = s.nresp := rfl
@[simp] theorem loadHumidity_settleMs (s : State) : (loadHumidity s).settleMs = s.settleMs := rfl
@[simp] theorem loadHumidity_crc (s : State) : (loadHumidity s).crc = s.crc := rfl
@[simp] theorem loadHumidity_txbuf (s : State) : (loadHumidity s).txbuf = s.txbuf := rfl
@[simp] theorem loadHumidity_txlen (s : State) : (loadHumidity s).txlen = s.txlen := rfl
@[simp] theorem loadHumidity_rxbuf (s : State) : (loadHumidity s).rxbuf = s.rxbuf := rfl
@[simp] theorem loadHumidity_rxlen (s : State) : (loadHumidity s).rxlen = s.rxlen := rfl
@[simp] theorem loadHumidity_blk (s : State) : (loadHumidity s).blk = s.blk := rfl
@[simp] theorem loadHumidity_timer (s : State) : (loadHumidity s).timer = s.timer := rfl
@[simp] theorem loadHumidity_pollcnt (s : State) : (loadHumidity s).pollcnt = s.pollcnt := rfl
@[simp] theorem loadHumidity_inputs (s : State) : (loadHumidity s).inputs = s.inputs := rfl
@[simp] theorem loadHumidity_trace (s : State) : (loadHumidity s).trace = s.trace := rfl

/-! ### buildPhase -/

@[simp] theorem buildPhase_opsel (s : State) : (buildPhase s).opsel = s.opsel := rfl
@[simp] theorem buildPhase_arg0 (s : State) : (buildPhase s).arg0 = s.arg0 := rfl
@[simp] theorem buildPhase_arg1 (s : State) : (buildPhase s).arg1 = s.arg1 := rfl
@[simp] theorem buildPhase_hum (s : State) : (buildPhase s).hum = s.hum := rfl
@[simp] theorem buildPhase_busy (s : State) : (buildPhase s).busy = s.busy := rfl
@[simp] theorem buildPhase_done (s : State) : (buildPhase s).done = s.done := rfl
@[simp] theorem buildPhase_ovr (s : State) : (buildPhase s).ovr = s.ovr := rfl
@[simp] theorem buildPhase_lastv (s : State) : (buildPhase s).lastv = s.lastv := rfl
@[simp] theorem buildPhase_err (s : State) : (buildPhase s).err = s.err := rfl
@[simp] theorem buildPhase_errdata (s : State) : (buildPhase s).errdata = s.errdata := rfl
@[simp] theorem buildPhase_errcrc (s : State) : (buildPhase s).errcrc = s.errcrc := rfl
@[simp] theorem buildPhase_errval (s : State) : (buildPhase s).errval = s.errval := rfl
@[simp] theorem buildPhase_rescnt (s : State) : (buildPhase s).rescnt = s.rescnt := rfl
@[simp] theorem buildPhase_res0 (s : State) : (buildPhase s).res0 = s.res0 := rfl
@[simp] theorem buildPhase_res1 (s : State) : (buildPhase s).res1 = s.res1 := rfl
@[simp] theorem buildPhase_res2 (s : State) : (buildPhase s).res2 = s.res2 := rfl
@[simp] theorem buildPhase_lastEco2 (s : State) : (buildPhase s).lastEco2 = s.lastEco2 := rfl
@[simp] theorem buildPhase_lastTvoc (s : State) : (buildPhase s).lastTvoc = s.lastTvoc := rfl
@[simp] theorem buildPhase_phase (s : State) : (buildPhase s).phase = .write := rfl
@[simp] theorem buildPhase_op (s : State) : (buildPhase s).op = s.op := rfl
@[simp] theorem buildPhase_opc (s : State) : (buildPhase s).opc = s.opc := rfl
@[simp] theorem buildPhase_p0 (s : State) : (buildPhase s).p0 = s.p0 := rfl
@[simp] theorem buildPhase_p1 (s : State) : (buildPhase s).p1 = s.p1 := rfl
@[simp] theorem buildPhase_npar (s : State) : (buildPhase s).npar = s.npar := rfl
@[simp] theorem buildPhase_nresp (s : State) : (buildPhase s).nresp = s.nresp := rfl
@[simp] theorem buildPhase_settleMs (s : State) : (buildPhase s).settleMs = s.settleMs := rfl
@[simp] theorem buildPhase_crc (s : State) : (buildPhase s).crc = crcAfterEncode (paramWords s) s.crc := rfl
@[simp] theorem buildPhase_txbuf (s : State) : (buildPhase s).txbuf = overwrite (commandBytes s) s.txbuf := rfl
@[simp] theorem buildPhase_txlen (s : State) : (buildPhase s).txlen = BitVec.ofNat 4 (commandBytes s).length := rfl
@[simp] theorem buildPhase_rxbuf (s : State) : (buildPhase s).rxbuf = s.rxbuf := rfl
@[simp] theorem buildPhase_rxlen (s : State) : (buildPhase s).rxlen = s.rxlen := rfl
@[simp] theorem buildPhase_blk (s : State) : (buildPhase s).blk = s.blk := rfl
@[simp] theorem buildPhase_timer (s : State) : (buildPhase s).timer = s.timer := rfl
@[simp] theorem buildPhase_pollcnt (s : State) : (buildPhase s).pollcnt = s.pollcnt := rfl
@[simp] theorem buildPhase_inputs (s : State) : (buildPhase s).inputs = s.inputs := rfl
@[simp] theorem buildPhase_trace (s : State) : (buildPhase s).trace = s.trace := rfl

/-! ### record -/

@[simp] theorem record_opsel (e : BusEvent) (s : State) : (record e s).opsel = s.opsel := rfl
@[simp] theorem record_arg0 (e : BusEvent) (s : State) : (record e s).arg0 = s.arg0 := rfl
@[simp] theorem record_arg1 (e : BusEvent) (s : State) : (record e s).arg1 = s.arg1 := rfl
@[simp] theorem record_hum (e : BusEvent) (s : State) : (record e s).hum = s.hum := rfl
@[simp] theorem record_busy (e : BusEvent) (s : State) : (record e s).busy = s.busy := rfl
@[simp] theorem record_done (e : BusEvent) (s : State) : (record e s).done = s.done := rfl
@[simp] theorem record_ovr (e : BusEvent) (s : State) : (record e s).ovr = s.ovr := rfl
@[simp] theorem record_lastv (e : BusEvent) (s : State) : (record e s).lastv = s.lastv := rfl
@[simp] theorem record_err (e : BusEvent) (s : State) : (record e s).err = s.err := rfl
@[simp] theorem record_errdata (e : BusEvent) (s : State) : (record e s).errdata = s.errdata := rfl
@[simp] theorem record_errcrc (e : BusEvent) (s : State) : (record e s).errcrc = s.errcrc := rfl
@[simp] theorem record_errval (e : BusEvent) (s : State) : (record e s).errval = s.errval := rfl
@[simp] theorem record_rescnt (e : BusEvent) (s : State) : (record e s).rescnt = s.rescnt := rfl
@[simp] theorem record_res0 (e : BusEvent) (s : State) : (record e s).res0 = s.res0 := rfl
@[simp] theorem record_res1 (e : BusEvent) (s : State) : (record e s).res1 = s.res1 := rfl
@[simp] theorem record_res2 (e : BusEvent) (s : State) : (record e s).res2 = s.res2 := rfl
@[simp] theorem record_lastEco2 (e : BusEvent) (s : State) : (record e s).lastEco2 = s.lastEco2 := rfl
@[simp] theorem record_lastTvoc (e : BusEvent) (s : State) : (record e s).lastTvoc = s.lastTvoc := rfl
@[simp] theorem record_phase (e : BusEvent) (s : State) : (record e s).phase = s.phase := rfl
@[simp] theorem record_op (e : BusEvent) (s : State) : (record e s).op = s.op := rfl
@[simp] theorem record_opc (e : BusEvent) (s : State) : (record e s).opc = s.opc := rfl
@[simp] theorem record_p0 (e : BusEvent) (s : State) : (record e s).p0 = s.p0 := rfl
@[simp] theorem record_p1 (e : BusEvent) (s : State) : (record e s).p1 = s.p1 := rfl
@[simp] theorem record_npar (e : BusEvent) (s : State) : (record e s).npar = s.npar := rfl
@[simp] theorem record_nresp (e : BusEvent) (s : State) : (record e s).nresp = s.nresp := rfl
@[simp] theorem record_settleMs (e : BusEvent) (s : State) : (record e s).settleMs = s.settleMs := rfl
@[simp] theorem record_crc (e : BusEvent) (s : State) : (record e s).crc = s.crc := rfl
@[simp] theorem record_txbuf (e : BusEvent) (s : State) : (record e s).txbuf = s.txbuf := rfl
@[simp] theorem record_txlen (e : BusEvent) (s : State) : (record e s).txlen = s.txlen := rfl
@[simp] theorem record_rxbuf (e : BusEvent) (s : State) : (record e s).rxbuf = s.rxbuf := rfl
@[simp] theorem record_rxlen (e : BusEvent) (s : State) : (record e s).rxlen = s.rxlen := rfl
@[simp] theorem record_blk (e : BusEvent) (s : State) : (record e s).blk = s.blk := rfl
@[simp] theorem record_timer (e : BusEvent) (s : State) : (record e s).timer = s.timer := rfl
@[simp] theorem record_pollcnt (e : BusEvent) (s : State) : (record e s).pollcnt = s.pollcnt := rfl
@[simp] theorem record_inputs (e : BusEvent) (s : State) : (record e s).inputs = s.inputs := rfl
@[simp] theorem record_trace (e : BusEvent) (s : State) : (record e s).trace = s.trace ++ [e] := rfl

/-! ### beginWait -/

@[simp] theorem beginWait_opsel (p : Phase) (ms : Nat) (s : State) : (beginWait p ms s).opsel = s.opsel := rfl
@[simp] theorem beginWait_arg0 (p : Phase) (ms : Nat) (s : State) : (beginWait p ms s).arg0 = s.arg0 := rfl
@[simp] theorem beginWait_arg1 (p : Phase) (ms : Nat) (s : State) : (beginWait p ms s).arg1 = s.arg1 := rfl
@[simp] theorem beginWait_hum (p : Phase) (ms : Nat) (s : State) : (beginWait p ms s).hum = s.hum := rfl
@[simp] theorem beginWait_busy (p : Phase) (ms : Nat) (s : State) : (beginWait p ms s).busy = s.busy := rfl
@[simp] theorem beginWait_done (p : Phase) (ms : Nat) (s : State) : (beginWait p ms s).done = s.done := rfl
@[simp] theorem beginWait_ovr (p : Phase) (ms : Nat) (s : State) : (beginWait p ms s).ovr = s.ovr := rfl
@[simp] theorem beginWait_lastv (p : Phase) (ms : Nat) (s : State) : (beginWait p ms s).lastv = s.lastv := rfl
@[simp] theorem beginWait_err (p : Phase) (ms : Nat) (s : State) : (beginWait p ms s).err = s.err := rfl
@[simp] theorem beginWait_errdata (p : Phase) (ms : Nat) (s : State) : (beginWait p ms s).errdata = s.errdata := rfl
@[simp] theorem beginWait_errcrc (p : Phase) (ms : Nat) (s : State) : (beginWait p ms s).errcrc = s.errcrc := rfl
@[simp] theorem beginWait_errval (p : Phase) (ms : Nat) (s : State) : (beginWait p ms s).errval = s.errval := rfl
@[simp] theorem beginWait_rescnt (p : Phase) (ms : Nat) (s : State) : (beginWait p ms s).rescnt = s.rescnt := rfl
@[simp] theorem beginWait_res0 (p : Phase) (ms : Nat) (s : State) : (beginWait p ms s).res0 = s.res0 := rfl
@[simp] theorem beginWait_res1 (p : Phase) (ms : Nat) (s : State) : (beginWait p ms s).res1 = s.res1 := rfl
@[simp] theorem beginWait_res2 (p : Phase) (ms : Nat) (s : State) : (beginWait p ms s).res2 = s.res2 := rfl
@[simp] theorem beginWait_lastEco2 (p : Phase) (ms : Nat) (s : State) : (beginWait p ms s).lastEco2 = s.lastEco2 := rfl
@[simp] theorem beginWait_lastTvoc (p : Phase) (ms : Nat) (s : State) : (beginWait p ms s).lastTvoc = s.lastTvoc := rfl
@[simp] theorem beginWait_phase (p : Phase) (ms : Nat) (s : State) : (beginWait p ms s).phase = p := rfl
@[simp] theorem beginWait_op (p : Phase) (ms : Nat) (s : State) : (beginWait p ms s).op = s.op := rfl
@[simp] theorem beginWait_opc (p : Phase) (ms : Nat) (s : State) : (beginWait p ms s).opc = s.opc := rfl
@[simp] theorem beginWait_p0 (p : Phase) (ms : Nat) (s : State) : (beginWait p ms s).p0 = s.p0 := rfl
@[simp] theorem beginWait_p1 (p : Phase) (ms : Nat) (s : State) : (beginWait p ms s).p1 = s.p1 := rfl
@[simp] theorem beginWait_npar (p : Phase) (ms : Nat) (s : State) : (beginWait p ms s).npar = s.npar := rfl
@[simp] theorem beginWait_nresp (p : Phase) (ms : Nat) (s : State) : (beginWait p ms s).nresp = s.nresp := rfl
@[simp] theorem beginWait_settleMs (p : Phase) (ms : Nat) (s : State) : (beginWait p ms s).settleMs = s.settleMs := rfl
@[simp] theorem beginWait_crc (p : Phase) (ms : Nat) (s : State) : (beginWait p ms s).crc = s.crc := rfl
@[simp] theorem beginWait_txbuf (p : Phase) (ms : Nat) (s : State) : (beginWait p ms s).txbuf = s.txbuf := rfl
@[simp] theorem beginWait_txlen (p : Phase) (ms : Nat) (s : State) : (beginWait p ms s).txlen = s.txlen := rfl
@[simp] theorem beginWait_rxbuf (p : Phase) (ms : Nat) (s : State) : (beginWait p ms s).rxbuf = s.rxbuf := rfl
@[simp] theorem beginWait_rxlen (p : Phase) (ms : Nat) (s : State) : (beginWait p ms s).rxlen = s.rxlen := rfl
@[simp] theorem beginWait_blk (p : Phase) (ms : Nat) (s : State) : (beginWait p ms s).blk = s.blk := rfl
@[simp] theorem beginWait_timer (p : Phase) (ms : Nat) (s : State) : (beginWait p ms s).timer = ms * Config.ticksPerMs := rfl
@[simp] theorem beginWait_pollcnt (p : Phase) (ms : Nat) (s : State) : (beginWait p ms s).pollcnt = s.pollcnt := rfl
@[simp] theorem beginWait_inputs (p : Phase) (ms : Nat) (s : State) : (beginWait p ms s).inputs = s.inputs := rfl
@[simp] theorem beginWait_trace (p : Phase) (ms : Nat) (s : State) : (beginWait p ms s).trace = s.trace := rfl

/-! ### receive -/

@[simp] theorem receive_opsel (bytes : List Byte) (s : State) : (receive bytes s).opsel = s.opsel := rfl
@[simp] theorem receive_arg0 (bytes : List Byte) (s : State) : (receive bytes s).arg0 = s.arg0 := rfl
@[simp] theorem receive_arg1 (bytes : List Byte) (s : State) : (receive bytes s).arg1 = s.arg1 := rfl
@[simp] theorem receive_hum (bytes : List Byte) (s : State) : (receive bytes s).hum = s.hum := rfl
@[simp] theorem receive_busy (bytes : List Byte) (s : State) : (receive bytes s).busy = s.busy := rfl
@[simp] theorem receive_done (bytes : List Byte) (s : State) : (receive bytes s).done = s.done := rfl
@[simp] theorem receive_ovr (bytes : List Byte) (s : State) : (receive bytes s).ovr = s.ovr := rfl
@[simp] theorem receive_lastv (bytes : List Byte) (s : State) : (receive bytes s).lastv = s.lastv := rfl
@[simp] theorem receive_err (bytes : List Byte) (s : State) : (receive bytes s).err = s.err := rfl
@[simp] theorem receive_errdata (bytes : List Byte) (s : State) : (receive bytes s).errdata = s.errdata := rfl
@[simp] theorem receive_errcrc (bytes : List Byte) (s : State) : (receive bytes s).errcrc = s.errcrc := rfl
@[simp] theorem receive_errval (bytes : List Byte) (s : State) : (receive bytes s).errval = s.errval := rfl
@[simp] theorem receive_rescnt (bytes : List Byte) (s : State) : (receive bytes s).rescnt = s.rescnt := rfl
@[simp] theorem receive_res0 (bytes : List Byte) (s : State) : (receive bytes s).res0 = s.res0 := rfl
@[simp] theorem receive_res1 (bytes : List Byte) (s : State) : (receive bytes s).res1 = s.res1 := rfl
@[simp] theorem receive_res2 (bytes : List Byte) (s : State) : (receive bytes s).res2 = s.res2 := rfl
@[simp] theorem receive_lastEco2 (bytes : List Byte) (s : State) : (receive bytes s).lastEco2 = s.lastEco2 := rfl
@[simp] theorem receive_lastTvoc (bytes : List Byte) (s : State) : (receive bytes s).lastTvoc = s.lastTvoc := rfl
@[simp] theorem receive_phase (bytes : List Byte) (s : State) : (receive bytes s).phase = .decode := rfl
@[simp] theorem receive_op (bytes : List Byte) (s : State) : (receive bytes s).op = s.op := rfl
@[simp] theorem receive_opc (bytes : List Byte) (s : State) : (receive bytes s).opc = s.opc := rfl
@[simp] theorem receive_p0 (bytes : List Byte) (s : State) : (receive bytes s).p0 = s.p0 := rfl
@[simp] theorem receive_p1 (bytes : List Byte) (s : State) : (receive bytes s).p1 = s.p1 := rfl
@[simp] theorem receive_npar (bytes : List Byte) (s : State) : (receive bytes s).npar = s.npar := rfl
@[simp] theorem receive_nresp (bytes : List Byte) (s : State) : (receive bytes s).nresp = s.nresp := rfl
@[simp] theorem receive_settleMs (bytes : List Byte) (s : State) : (receive bytes s).settleMs = s.settleMs := rfl
@[simp] theorem receive_crc (bytes : List Byte) (s : State) : (receive bytes s).crc = s.crc := rfl
@[simp] theorem receive_txbuf (bytes : List Byte) (s : State) : (receive bytes s).txbuf = s.txbuf := rfl
@[simp] theorem receive_txlen (bytes : List Byte) (s : State) : (receive bytes s).txlen = s.txlen := rfl
@[simp] theorem receive_rxbuf (bytes : List Byte) (s : State) : (receive bytes s).rxbuf = overwrite bytes s.rxbuf := rfl
@[simp] theorem receive_rxlen (bytes : List Byte) (s : State) : (receive bytes s).rxlen = BitVec.ofNat 4 bytes.length := rfl
@[simp] theorem receive_blk (bytes : List Byte) (s : State) : (receive bytes s).blk = s.blk := rfl
@[simp] theorem receive_timer (bytes : List Byte) (s : State) : (receive bytes s).timer = s.timer := rfl
@[simp] theorem receive_pollcnt (bytes : List Byte) (s : State) : (receive bytes s).pollcnt = s.pollcnt := rfl
@[simp] theorem receive_inputs (bytes : List Byte) (s : State) : (receive bytes s).inputs = s.inputs := rfl
@[simp] theorem receive_trace (bytes : List Byte) (s : State) : (receive bytes s).trace = s.trace := rfl

/-! ### afterCheck -/

@[simp] theorem afterCheck_opsel (frame : List Byte) (s : State) : (afterCheck frame s).opsel = s.opsel := rfl
@[simp] theorem afterCheck_arg0 (frame : List Byte) (s : State) : (afterCheck frame s).arg0 = s.arg0 := rfl
@[simp] theorem afterCheck_arg1 (frame : List Byte) (s : State) : (afterCheck frame s).arg1 = s.arg1 := rfl
@[simp] theorem afterCheck_hum (frame : List Byte) (s : State) : (afterCheck frame s).hum = s.hum := rfl
@[simp] theorem afterCheck_busy (frame : List Byte) (s : State) : (afterCheck frame s).busy = s.busy := rfl
@[simp] theorem afterCheck_done (frame : List Byte) (s : State) : (afterCheck frame s).done = s.done := rfl
@[simp] theorem afterCheck_ovr (frame : List Byte) (s : State) : (afterCheck frame s).ovr = s.ovr := rfl
@[simp] theorem afterCheck_lastv (frame : List Byte) (s : State) : (afterCheck frame s).lastv = s.lastv := rfl
@[simp] theorem afterCheck_err (frame : List Byte) (s : State) : (afterCheck frame s).err = s.err := rfl
@[simp] theorem afterCheck_errdata (frame : List Byte) (s : State) : (afterCheck frame s).errdata = s.errdata := rfl
@[simp] theorem afterCheck_errcrc (frame : List Byte) (s : State) : (afterCheck frame s).errcrc = s.errcrc := rfl
@[simp] theorem afterCheck_errval (frame : List Byte) (s : State) : (afterCheck frame s).errval = s.errval := rfl
@[simp] theorem afterCheck_rescnt (frame : List Byte) (s : State) : (afterCheck frame s).rescnt = s.rescnt := rfl
@[simp] theorem afterCheck_res0 (frame : List Byte) (s : State) : (afterCheck frame s).res0 = s.res0 := rfl
@[simp] theorem afterCheck_res1 (frame : List Byte) (s : State) : (afterCheck frame s).res1 = s.res1 := rfl
@[simp] theorem afterCheck_res2 (frame : List Byte) (s : State) : (afterCheck frame s).res2 = s.res2 := rfl
@[simp] theorem afterCheck_lastEco2 (frame : List Byte) (s : State) : (afterCheck frame s).lastEco2 = s.lastEco2 := rfl
@[simp] theorem afterCheck_lastTvoc (frame : List Byte) (s : State) : (afterCheck frame s).lastTvoc = s.lastTvoc := rfl
@[simp] theorem afterCheck_phase (frame : List Byte) (s : State) : (afterCheck frame s).phase = s.phase := rfl
@[simp] theorem afterCheck_op (frame : List Byte) (s : State) : (afterCheck frame s).op = s.op := rfl
@[simp] theorem afterCheck_opc (frame : List Byte) (s : State) : (afterCheck frame s).opc = s.opc := rfl
@[simp] theorem afterCheck_p0 (frame : List Byte) (s : State) : (afterCheck frame s).p0 = s.p0 := rfl
@[simp] theorem afterCheck_p1 (frame : List Byte) (s : State) : (afterCheck frame s).p1 = s.p1 := rfl
@[simp] theorem afterCheck_npar (frame : List Byte) (s : State) : (afterCheck frame s).npar = s.npar := rfl
@[simp] theorem afterCheck_nresp (frame : List Byte) (s : State) : (afterCheck frame s).nresp = s.nresp := rfl
@[simp] theorem afterCheck_settleMs (frame : List Byte) (s : State) : (afterCheck frame s).settleMs = s.settleMs := rfl
@[simp] theorem afterCheck_crc (frame : List Byte) (s : State) : (afterCheck frame s).crc = crcAfterDecode frame s.crc := rfl
@[simp] theorem afterCheck_txbuf (frame : List Byte) (s : State) : (afterCheck frame s).txbuf = s.txbuf := rfl
@[simp] theorem afterCheck_txlen (frame : List Byte) (s : State) : (afterCheck frame s).txlen = s.txlen := rfl
@[simp] theorem afterCheck_rxbuf (frame : List Byte) (s : State) : (afterCheck frame s).rxbuf = s.rxbuf := rfl
@[simp] theorem afterCheck_rxlen (frame : List Byte) (s : State) : (afterCheck frame s).rxlen = s.rxlen := rfl
@[simp] theorem afterCheck_blk (frame : List Byte) (s : State) : (afterCheck frame s).blk = BitVec.ofNat 2 (lastExamined frame) := rfl
@[simp] theorem afterCheck_timer (frame : List Byte) (s : State) : (afterCheck frame s).timer = s.timer := rfl
@[simp] theorem afterCheck_pollcnt (frame : List Byte) (s : State) : (afterCheck frame s).pollcnt = s.pollcnt := rfl
@[simp] theorem afterCheck_inputs (frame : List Byte) (s : State) : (afterCheck frame s).inputs = s.inputs := rfl
@[simp] theorem afterCheck_trace (frame : List Byte) (s : State) : (afterCheck frame s).trace = s.trace := rfl

/-! ### takeMeasurement -/

@[simp] theorem takeMeasurement_opsel (ws : List Word) (s : State) : (takeMeasurement ws s).opsel = s.opsel := rfl
@[simp] theorem takeMeasurement_arg0 (ws : List Word) (s : State) : (takeMeasurement ws s).arg0 = s.arg0 := rfl
@[simp] theorem takeMeasurement_arg1 (ws : List Word) (s : State) : (takeMeasurement ws s).arg1 = s.arg1 := rfl
@[simp] theorem takeMeasurement_hum (ws : List Word) (s : State) : (takeMeasurement ws s).hum = s.hum := rfl
@[simp] theorem takeMeasurement_busy (ws : List Word) (s : State) : (takeMeasurement ws s).busy = s.busy := rfl
@[simp] theorem takeMeasurement_done (ws : List Word) (s : State) : (takeMeasurement ws s).done = s.done := rfl
@[simp] theorem takeMeasurement_ovr (ws : List Word) (s : State) : (takeMeasurement ws s).ovr = s.ovr := rfl
@[simp] theorem takeMeasurement_lastv (ws : List Word) (s : State) : (takeMeasurement ws s).lastv = true := rfl
@[simp] theorem takeMeasurement_err (ws : List Word) (s : State) : (takeMeasurement ws s).err = s.err := rfl
@[simp] theorem takeMeasurement_errdata (ws : List Word) (s : State) : (takeMeasurement ws s).errdata = s.errdata := rfl
@[simp] theorem takeMeasurement_errcrc (ws : List Word) (s : State) : (takeMeasurement ws s).errcrc = s.errcrc := rfl
@[simp] theorem takeMeasurement_errval (ws : List Word) (s : State) : (takeMeasurement ws s).errval = s.errval := rfl
@[simp] theorem takeMeasurement_rescnt (ws : List Word) (s : State) : (takeMeasurement ws s).rescnt = s.rescnt := rfl
@[simp] theorem takeMeasurement_res0 (ws : List Word) (s : State) : (takeMeasurement ws s).res0 = ws[0]?.getD s.res0 := rfl
@[simp] theorem takeMeasurement_res1 (ws : List Word) (s : State) : (takeMeasurement ws s).res1 = ws[1]?.getD s.res1 := rfl
@[simp] theorem takeMeasurement_res2 (ws : List Word) (s : State) : (takeMeasurement ws s).res2 = ws[2]?.getD s.res2 := rfl
@[simp] theorem takeMeasurement_lastEco2 (ws : List Word) (s : State) : (takeMeasurement ws s).lastEco2 = ws[0]?.getD s.lastEco2 := rfl
@[simp] theorem takeMeasurement_lastTvoc (ws : List Word) (s : State) : (takeMeasurement ws s).lastTvoc = ws[1]?.getD s.lastTvoc := rfl
@[simp] theorem takeMeasurement_phase (ws : List Word) (s : State) : (takeMeasurement ws s).phase = s.phase := rfl
@[simp] theorem takeMeasurement_op (ws : List Word) (s : State) : (takeMeasurement ws s).op = s.op := rfl
@[simp] theorem takeMeasurement_opc (ws : List Word) (s : State) : (takeMeasurement ws s).opc = s.opc := rfl
@[simp] theorem takeMeasurement_p0 (ws : List Word) (s : State) : (takeMeasurement ws s).p0 = s.p0 := rfl
@[simp] theorem takeMeasurement_p1 (ws : List Word) (s : State) : (takeMeasurement ws s).p1 = s.p1 := rfl
@[simp] theorem takeMeasurement_npar (ws : List Word) (s : State) : (takeMeasurement ws s).npar = s.npar := rfl
@[simp] theorem takeMeasurement_nresp (ws : List Word) (s : State) : (takeMeasurement ws s).nresp = s.nresp := rfl
@[simp] theorem takeMeasurement_settleMs (ws : List Word) (s : State) : (takeMeasurement ws s).settleMs = s.settleMs := rfl
@[simp] theorem takeMeasurement_crc (ws : List Word) (s : State) : (takeMeasurement ws s).crc = s.crc := rfl
@[simp] theorem takeMeasurement_txbuf (ws : List Word) (s : State) : (takeMeasurement ws s).txbuf = s.txbuf := rfl
@[simp] theorem takeMeasurement_txlen (ws : List Word) (s : State) : (takeMeasurement ws s).txlen = s.txlen := rfl
@[simp] theorem takeMeasurement_rxbuf (ws : List Word) (s : State) : (takeMeasurement ws s).rxbuf = s.rxbuf := rfl
@[simp] theorem takeMeasurement_rxlen (ws : List Word) (s : State) : (takeMeasurement ws s).rxlen = s.rxlen := rfl
@[simp] theorem takeMeasurement_blk (ws : List Word) (s : State) : (takeMeasurement ws s).blk = s.blk := rfl
@[simp] theorem takeMeasurement_timer (ws : List Word) (s : State) : (takeMeasurement ws s).timer = s.timer := rfl
@[simp] theorem takeMeasurement_pollcnt (ws : List Word) (s : State) : (takeMeasurement ws s).pollcnt = s.pollcnt := rfl
@[simp] theorem takeMeasurement_inputs (ws : List Word) (s : State) : (takeMeasurement ws s).inputs = s.inputs := rfl
@[simp] theorem takeMeasurement_trace (ws : List Word) (s : State) : (takeMeasurement ws s).trace = s.trace := rfl

/-! ### raise -/

@[simp] theorem raise_opsel (e : HwError) (s : State) : (raise e s).opsel = s.opsel := by cases e <;> rfl
@[simp] theorem raise_arg0 (e : HwError) (s : State) : (raise e s).arg0 = s.arg0 := by cases e <;> rfl
@[simp] theorem raise_arg1 (e : HwError) (s : State) : (raise e s).arg1 = s.arg1 := by cases e <;> rfl
@[simp] theorem raise_hum (e : HwError) (s : State) : (raise e s).hum = s.hum := by cases e <;> rfl
@[simp] theorem raise_busy (e : HwError) (s : State) : (raise e s).busy = false := rfl
@[simp] theorem raise_done (e : HwError) (s : State) : (raise e s).done = true := rfl
@[simp] theorem raise_ovr (e : HwError) (s : State) : (raise e s).ovr = s.ovr := by cases e <;> rfl
@[simp] theorem raise_lastv (e : HwError) (s : State) : (raise e s).lastv = s.lastv := by cases e <;> rfl
@[simp] theorem raise_err (e : HwError) (s : State) : (raise e s).err = errCode e := rfl
@[simp] theorem raise_rescnt (e : HwError) (s : State) : (raise e s).rescnt = 0 := rfl
@[simp] theorem raise_res0 (e : HwError) (s : State) : (raise e s).res0 = s.res0 := by cases e <;> rfl
@[simp] theorem raise_res1 (e : HwError) (s : State) : (raise e s).res1 = s.res1 := by cases e <;> rfl
@[simp] theorem raise_res2 (e : HwError) (s : State) : (raise e s).res2 = s.res2 := by cases e <;> rfl
@[simp] theorem raise_lastEco2 (e : HwError) (s : State) : (raise e s).lastEco2 = s.lastEco2 := by cases e <;> rfl
@[simp] theorem raise_lastTvoc (e : HwError) (s : State) : (raise e s).lastTvoc = s.lastTvoc := by cases e <;> rfl
@[simp] theorem raise_phase (e : HwError) (s : State) : (raise e s).phase = .idle := rfl
@[simp] theorem raise_op (e : HwError) (s : State) : (raise e s).op = s.op := by cases e <;> rfl
@[simp] theorem raise_opc (e : HwError) (s : State) : (raise e s).opc = s.opc := by cases e <;> rfl
@[simp] theorem raise_p0 (e : HwError) (s : State) : (raise e s).p0 = s.p0 := by cases e <;> rfl
@[simp] theorem raise_p1 (e : HwError) (s : State) : (raise e s).p1 = s.p1 := by cases e <;> rfl
@[simp] theorem raise_npar (e : HwError) (s : State) : (raise e s).npar = s.npar := by cases e <;> rfl
@[simp] theorem raise_nresp (e : HwError) (s : State) : (raise e s).nresp = s.nresp := by cases e <;> rfl
@[simp] theorem raise_settleMs (e : HwError) (s : State) : (raise e s).settleMs = s.settleMs := by cases e <;> rfl
@[simp] theorem raise_crc (e : HwError) (s : State) : (raise e s).crc = s.crc := by cases e <;> rfl
@[simp] theorem raise_txbuf (e : HwError) (s : State) : (raise e s).txbuf = s.txbuf := by cases e <;> rfl
@[simp] theorem raise_txlen (e : HwError) (s : State) : (raise e s).txlen = s.txlen := by cases e <;> rfl
@[simp] theorem raise_rxbuf (e : HwError) (s : State) : (raise e s).rxbuf = s.rxbuf := by cases e <;> rfl
@[simp] theorem raise_rxlen (e : HwError) (s : State) : (raise e s).rxlen = s.rxlen := by cases e <;> rfl
@[simp] theorem raise_blk (e : HwError) (s : State) : (raise e s).blk = s.blk := by cases e <;> rfl
@[simp] theorem raise_timer (e : HwError) (s : State) : (raise e s).timer = s.timer := by cases e <;> rfl
@[simp] theorem raise_pollcnt (e : HwError) (s : State) : (raise e s).pollcnt = s.pollcnt := by cases e <;> rfl
@[simp] theorem raise_inputs (e : HwError) (s : State) : (raise e s).inputs = s.inputs := by cases e <;> rfl
@[simp] theorem raise_trace (e : HwError) (s : State) : (raise e s).trace = s.trace := by cases e <;> rfl

@[simp] theorem raise_checksum_errdata (data : Word) (crc : Byte) (s : State) :
    (raise (.invalidChecksum data crc) s).errdata = data := rfl
@[simp] theorem raise_checksum_errcrc (data : Word) (crc : Byte) (s : State) :
    (raise (.invalidChecksum data crc) s).errcrc = crc := rfl
@[simp] theorem raise_checksum_errval (data : Word) (crc : Byte) (s : State) :
    (raise (.invalidChecksum data crc) s).errval = s.errval := rfl
@[simp] theorem raise_domain_errdata (value : BitVec 32) (s : State) : (raise (.domain value) s).errdata = s.errdata := rfl
@[simp] theorem raise_domain_errcrc (value : BitVec 32) (s : State) : (raise (.domain value) s).errcrc = s.errcrc := rfl
@[simp] theorem raise_domain_errval (value : BitVec 32) (s : State) : (raise (.domain value) s).errval = value := rfl
@[simp] theorem raise_io_errdata (d : Direction) (s : State) : (raise (.io d) s).errdata = s.errdata := rfl
@[simp] theorem raise_io_errcrc (d : Direction) (s : State) : (raise (.io d) s).errcrc = s.errcrc := rfl
@[simp] theorem raise_io_errval (d : Direction) (s : State) : (raise (.io d) s).errval = directionCode d := rfl
@[simp] theorem raise_illegalOp_errdata (c : BitVec 4) (s : State) : (raise (.illegalOp c) s).errdata = s.errdata := rfl
@[simp] theorem raise_illegalOp_errcrc (c : BitVec 4) (s : State) : (raise (.illegalOp c) s).errcrc = s.errcrc := rfl
@[simp] theorem raise_illegalOp_errval (c : BitVec 4) (s : State) :
    (raise (.illegalOp c) s).errval = c.setWidth 32 := rfl

/-! ### hostWriteReg -/

@[simp] theorem hostWriteReg_opsel (v : BitVec 32) (s : State) :
    hostWriteReg 0 v s = { s with opsel := v.setWidth 4 } := rfl
@[simp] theorem hostWriteReg_arg0 (v : BitVec 32) (s : State) :
    hostWriteReg 1 v s = { s with arg0 := v.setWidth 16 } := rfl
@[simp] theorem hostWriteReg_arg1 (v : BitVec 32) (s : State) :
    hostWriteReg 2 v s = { s with arg1 := v.setWidth 16 } := rfl
@[simp] theorem hostWriteReg_hum (v : BitVec 32) (s : State) : hostWriteReg 3 v s = { s with hum := v } := rfl

/-- R14: a write to a number above 3 has no effect. -/
theorem hostWriteReg_of_readOnly (n : Nat) (v : BitVec 32) (s : State) (h : 4 ≤ n) : hostWriteReg n v s = s := by
  unfold hostWriteReg
  split <;> first | omega | rfl

/-- R14: a host write changes the operand registers only. -/
theorem hostWriteReg_cases (n : Nat) (v : BitVec 32) (s : State) :
    ∃ opsel arg0 arg1 hum, hostWriteReg n v s = { s with opsel := opsel, arg0 := arg0, arg1 := arg1, hum := hum } := by
  unfold hostWriteReg
  split
  · exact ⟨v.setWidth 4, s.arg0, s.arg1, s.hum, rfl⟩
  · exact ⟨s.opsel, v.setWidth 16, s.arg1, s.hum, rfl⟩
  · exact ⟨s.opsel, s.arg0, v.setWidth 16, s.hum, rfl⟩
  · exact ⟨s.opsel, s.arg0, s.arg1, v, rfl⟩
  · exact ⟨s.opsel, s.arg0, s.arg1, s.hum, rfl⟩

end Sys2Proof.Machine
end

