-- ==== Sys2Proof/Laws/Sequencer.lean ====
section
/-! SUPPORT. What each shared operation can do, said once: if it answers next t, then one of these cases holds. -/

namespace Sys2Proof.Machine

/-! ### Events -/

/-- R145: what reset can leave. -/
theorem resetBy_next {c : Option BusResponse} {s t : State} (h : resetBy c s = .next t) :
    t = { State.reset with inputs := s.inputs, trace := s.trace } ∨
    ∃ request response e, busRequest s = some request ∧ c = some response ∧ completion request response = some e ∧
      t = { State.reset with inputs := s.inputs, trace := s.trace ++ [e] } := by
  unfold resetBy at h
  split at h
  · rename_i request response hr
    split at h
    · rename_i e he
      exact .inr ⟨request, response, e, hr, rfl, he, by cases h; rfl⟩
    · cases h
  · exact .inl (by cases h; rfl)

/-- The words of an EXECUTE go to the operation in OP, or the step faults. -/
theorem returnWords_next {ws : List Word} {s t : State} (h : returnWords ws s = .next t) :
    (s.op = 0 ∧ t = returnInitialise ws s) ∨ (s.op = 1 ∧ t = returnInitialiseBl ws s) ∨
    (s.op = 2 ∧ t = returnGetSerialId ws s) ∨ (s.op = 3 ∧ t = returnGetFeatureSet ws s) ∨
    (s.op = 4 ∧ t = returnMeasure ws s) ∨ (s.op = 5 ∧ t = returnGetBaseline ws s) ∨
    (s.op = 6 ∧ t = returnSetBaseline ws s) ∨ (s.op = 7 ∧ t = returnGetRawSignals ws s) ∨
    (s.op = 8 ∧ t = returnSetHumidity ws s) := by
  unfold returnWords at h
  split at h
  all_goals first
    | (rename_i ho
       have hc := Option.some.inj (decodeSelect_ok ho).1
       injection h with h
       subst h
       simp [← hc])
    | cases h

/-- R114: after CMD_INIT the counter is cleared and the first wait begins; after a poll the operation ends or the next
wait begins. -/
theorem returnInitialise_cases (ws : List Word) (s : State) :
    (s.opc = 0x2003 ∧ returnInitialise ws s = beginWait .pollwait 1000 { s with pollcnt := 0 }) ∨
    (s.opc ≠ 0x2003 ∧ (ws.head? ≠ some 400 ∨ s.pollcnt + 1 = 20) ∧
      returnInitialise ws s = finish 2 { takeMeasurement ws s with pollcnt := s.pollcnt + 1 }) ∨
    (s.opc ≠ 0x2003 ∧ ws.head? = some 400 ∧ s.pollcnt + 1 ≠ 20 ∧
      returnInitialise ws s = beginWait .pollwait 1000 { takeMeasurement ws s with pollcnt := s.pollcnt + 1 }) := by
  by_cases h0 : s.opc = 0x2003
  · exact .inl ⟨h0, if_pos h0⟩
  · by_cases h1 : ws.head? ≠ some 400 ∨ s.pollcnt + 1 = 20
    · exact .inr (.inl ⟨h0, h1, (if_neg h0).trans (if_pos h1)⟩)
    · have h2 := not_or.1 h1
      exact .inr (.inr ⟨h0, not_not.1 h2.1, h2.2, (if_neg h0).trans (if_neg h1)⟩)

/-- R98, R99, R107: how a write ends. -/
theorem writeDone_next {r : BusResponse} {s t : State} (h : writeDone r s = .next t) :
    (r = .fail ∧ t = raise (.io .write)
      (record (.write Config.periphAddr (s.txbuf.take s.txlen.toNat) false) s)) ∨
    (∃ bytes, r = .ok bytes ∧ s.nresp = 0 ∧
      returnWords [] (record (.write Config.periphAddr (s.txbuf.take s.txlen.toNat) true) s) = .next t) ∨
    (∃ bytes, r = .ok bytes ∧ s.nresp ≠ 0 ∧
      t = beginSettle (record (.write Config.periphAddr (s.txbuf.take s.txlen.toNat) true) s)) := by
  cases r with
  | fail => exact .inl ⟨rfl, by cases h; rfl⟩
  | ok bytes =>
    by_cases hn : s.nresp = 0
    · exact .inr (.inl ⟨bytes, rfl, hn, by simpa [writeDone, hn] using h⟩)
    · refine .inr (.inr ⟨bytes, rfl, hn, ?_⟩)
      simp only [writeDone, if_neg hn] at h
      injection h with h
      exact h.symm

/-- R101, R107: how a read ends. -/
theorem readDone_next {r : BusResponse} {s t : State} (h : readDone r s = .next t) :
    (r = .fail ∧ t = raise (.io .read) (record (.read Config.periphAddr (3 * s.nresp.toNat) none) s)) ∨
    (∃ bytes, r = .ok bytes ∧ bytes.length = 3 * s.nresp.toNat ∧
      t = receive bytes (record (.read Config.periphAddr (3 * s.nresp.toNat) (some bytes)) s)) := by
  cases r with
  | fail => exact .inl ⟨rfl, by cases h; rfl⟩
  | ok bytes =>
    by_cases hn : bytes.length = 3 * s.nresp.toNat
    · refine .inr ⟨bytes, rfl, hn, ?_⟩
      simp only [readDone, if_pos hn] at h
      injection h with h
      exact h.symm
    · simp [readDone, hn] at h

/-- R102: how phase DECODE ends. -/
theorem decodePhase_next {s t : State} (h : decodePhase s = .next t) :
    (∃ ws, decodeFrame (s.rxbuf.take s.rxlen.toNat) s.nresp.toNat = .ok ws ∧
      returnWords ws (afterCheck (s.rxbuf.take s.rxlen.toNat) s) = .next t) ∨
    (∃ data crc, decodeFrame (s.rxbuf.take s.rxlen.toNat) s.nresp.toNat = .error (.invalidChecksum data crc) ∧
      t = raise (.invalidChecksum data crc) (afterCheck (s.rxbuf.take s.rxlen.toNat) s)) := by
  unfold decodePhase at h
  simp only at h
  split at h
  · exact .inl ⟨_, ‹_›, h⟩
  · exact .inr ⟨_, _, ‹_›, by cases h; rfl⟩
  · cases h

/-- The end of a wait, by phase. -/
theorem waitOver_cases (s : State) :
    (s.phase = .settle ∧
      waitOver s = { record (.wait s.settleMs.toNat) s with timer := 0, phase := .read }) ∨
    (s.phase = .pollwait ∧ waitOver s = loadCommand .measure { record (.wait 1000) s with timer := 0 }) ∨
    (s.phase ≠ .settle ∧ s.phase ≠ .pollwait ∧ waitOver s = s) := by
  unfold waitOver
  cases h : s.phase <;> simp [pollPeriodMs]

/-- R31: what `clk` cycles do. -/
theorem clockCycles_cases (n : Nat) (s : State) :
    clockCycles n s = s ∨ clockCycles n s = waitOver s ∨
    ((s.phase = .settle ∨ s.phase = .pollwait) ∧ clockCycles n s = { s with timer := s.timer - n }) := by
  unfold clockCycles
  split
  · split
    · exact .inr (.inl rfl)
    · exact .inr (.inr ⟨‹_›, rfl⟩)
  · exact .inl rfl

/-- R38: a bus answer is taken in WRITE and READ only. -/
theorem busAnswer_next {r : BusResponse} {s t : State} (h : busAnswer r s = .next t) :
    (s.phase = .write ∧ writeDone r s = .next t) ∨ (s.phase = .read ∧ readDone r s = .next t) := by
  unfold busAnswer at h
  split at h
  · exact .inl ⟨‹_›, h⟩
  · exact .inr ⟨‹_›, h⟩
  · cases h

/-- R25, R65, R66: what an accepted `start` begins. -/
theorem beginSelected_cases (s : State) :
    (s.opsel = 0 ∧ beginSelected s = beginInitialise s) ∨ (s.opsel = 1 ∧ beginSelected s = beginInitialiseBl s) ∨
    (s.opsel = 2 ∧ beginSelected s = beginGetSerialId s) ∨ (s.opsel = 3 ∧ beginSelected s = beginGetFeatureSet s) ∨
    (s.opsel = 4 ∧ beginSelected s = beginMeasure s) ∨ (s.opsel = 5 ∧ beginSelected s = beginGetBaseline s) ∨
    (s.opsel = 6 ∧ beginSelected s = beginSetBaseline s) ∨ (s.opsel = 7 ∧ beginSelected s = beginGetRawSignals s) ∨
    (s.opsel = 8 ∧ beginSelected s = beginSetHumidity s) ∨
    (9 ≤ s.opsel.toNat ∧ beginSelected s = beginReserved s.opsel s) := by
  have all : ∀ c : BitVec 4, c = 0 ∨ c = 1 ∨ c = 2 ∨ c = 3 ∨ c = 4 ∨ c = 5 ∨ c = 6 ∨ c = 7 ∨ c = 8 ∨ 9 ≤ c.toNat := by
    decide
  unfold beginSelected
  rcases all s.opsel with h | h | h | h | h | h | h | h | h | h
  all_goals first
    | (rw [(decodeSelect_error_iff _).2 h]; simp [h])
    | (rw [h]; simp [decodeSelect])

/-! ### Phase steps -/

/-- The phases that wait for another agent. -/
def Phase.waits : Phase → Bool
  | .idle | .write | .settle | .read | .pollwait => true
  | .build | .decode => false

theorem tick_build {s : State} (h : s.phase = .build) : tick s = .next (buildPhase s) := by
  simp [tick, h]

theorem tick_decode {s : State} (h : s.phase = .decode) : tick s = decodePhase s := by
  simp [tick, h]

theorem tick_event {s : State} {e : Input} {rest : List Input} (h : s.phase.waits = true)
    (hi : s.inputs = e :: rest) : tick s = onInput e { s with inputs := rest } := by
  unfold tick
  cases hp : s.phase <;> simp_all [Phase.waits, takeInput]

theorem tick_no_event {s : State} (h : s.phase.waits = true) (hi : s.inputs = []) : tick s = .next s := by
  unfold tick
  cases hp : s.phase <;> simp_all [Phase.waits, takeInput]

/-- R11: what one phase step can be. -/
theorem tick_next {s t : State} (h : tick s = .next t) :
    (s.phase = .build ∧ t = buildPhase s) ∨ (s.phase = .decode ∧ decodePhase s = .next t) ∨
    (s.phase.waits = true ∧ s.inputs = [] ∧ t = s) ∨
    (s.phase.waits = true ∧ ∃ e rest, s.inputs = e :: rest ∧ onInput e { s with inputs := rest } = .next t) := by
  cases hw : s.phase.waits with
  | false =>
    cases hp : s.phase <;> simp [hp, Phase.waits] at hw
    · rw [tick_build hp] at h
      injection h with h
      exact .inl ⟨rfl, h.symm⟩
    · rw [tick_decode hp] at h
      exact .inr (.inl ⟨rfl, h⟩)
  | true =>
    cases hi : s.inputs with
    | nil =>
      rw [tick_no_event hw hi] at h
      injection h with h
      exact .inr (.inr (.inl ⟨rfl, rfl, h.symm⟩))
    | cons e rest =>
      rw [tick_event hw hi] at h
      exact .inr (.inr (.inr ⟨rfl, e, rest, rfl, h⟩))

/-! ### Runs of phase steps -/

theorem run_stop {stop : State → Bool} {s : State} (n : Nat) (h : stop s = true) : run stop n s = .next s := by
  cases n <;> simp [run, h]

theorem run_step {stop : State → Bool} {s t : State} (n : Nat) (h : stop s = false) (ht : tick s = .next t) :
    run stop (n + 1) s = run stop n t := by
  simp [run, h, ht]

/-- A property that every phase step keeps, every run of them keeps. -/
theorem run_keeps {P : State → Prop} (hP : ∀ s t, P s → tick s = .next t → P t) {stop : State → Bool} {n : Nat}
    {s t : State} (hs : P s) (h : run stop n s = .next t) : P t := by
  induction n generalizing s with
  | zero => cases h; exact hs
  | succ n ih =>
    cases hstop : stop s with
    | true => rw [run_stop _ hstop] at h; cases h; exact hs
    | false =>
      simp only [run, hstop] at h
      cases ht : tick s with
      | next u => rw [ht] at h; exact ih (hP s u hs ht) h
      | fault r => rw [ht] at h; cases h
      | refused r => rw [ht] at h; cases h

/-- R25, R26: a host operation sets OVR, or it begins and runs. -/
theorem startOperation_next {begin : State → State} {s t : State} (h : startOperation begin s = .next t) :
    (s.busy = true ∧ t = overrun s) ∨ (s.busy = false ∧ runOperation (begin s) = .next t) := by
  unfold startOperation at h
  cases hb : s.busy with
  | true => rw [hb] at h; injection h with h; exact .inl ⟨rfl, h.symm⟩
  | false => rw [hb] at h; exact .inr ⟨rfl, h⟩

/-! ### The steps of an EXECUTE with a response -/

/-- R98, R100: a successful write of a command with a response begins the settle wait. -/
theorem tick_write_ok {s : State} {bytes : List Byte} {rest : List Input} (hp : s.phase = .write)
    (hi : s.inputs = .bus (.ok bytes) :: rest) (hn : s.nresp ≠ 0) (hs : s.settleMs ≠ 0) :
    tick s = .next { s with
      phase := .settle
      timer := s.settleMs.toNat * Config.ticksPerMs
      inputs := rest
      trace := s.trace ++ [.write Config.periphAddr (s.txbuf.take s.txlen.toNat) true] } := by
  rw [tick_event (by rw [hp]; rfl) hi]
  unfold onInput busAnswer
  simp only [hp]
  unfold writeDone
  simp only [if_neg hn]
  exact congrArg Host.Outcome.next (if_neg hs)

/-- R98, R99: a successful write of a command with no response returns to the operation at once. -/
theorem tick_write_ok_noResponse {s : State} {bytes : List Byte} {rest : List Input} (hp : s.phase = .write)
    (hi : s.inputs = .bus (.ok bytes) :: rest) (hn : s.nresp = 0) :
    tick s = returnWords [] { s with
      inputs := rest
      trace := s.trace ++ [.write Config.periphAddr (s.txbuf.take s.txlen.toNat) true] } := by
  rw [tick_event (by rw [hp]; rfl) hi]
  unfold onInput busAnswer
  simp only [hp]
  unfold writeDone
  simp only [if_pos hn]
  rfl

/-- R107: a failed write. -/
theorem tick_write_fail {s : State} {rest : List Input} (hp : s.phase = .write) (hi : s.inputs = .bus .fail :: rest) :
    tick s = .next (raise (.io .write) { s with
      inputs := rest
      trace := s.trace ++ [.write Config.periphAddr (s.txbuf.take s.txlen.toNat) false] }) := by
  rw [tick_event (by rw [hp]; rfl) hi]
  unfold onInput busAnswer
  simp only [hp]
  rfl

/-- R100: the settle wait ends. -/
theorem tick_settle_end {s : State} {rest : List Input} (hp : s.phase = .settle) (hi : s.inputs = .waitEnd :: rest) :
    tick s = .next { s with
      timer := 0, phase := .read, inputs := rest, trace := s.trace ++ [.wait s.settleMs.toNat] } := by
  rw [tick_event (by rw [hp]; rfl) hi]
  unfold onInput waitOver
  simp only [hp]
  rfl

/-- R114: the wait before a poll ends, and the poll begins. -/
theorem tick_pollwait_end {s : State} {rest : List Input} (hp : s.phase = .pollwait)
    (hi : s.inputs = .waitEnd :: rest) :
    tick s = .next (loadCommand .measure { s with timer := 0, inputs := rest, trace := s.trace ++ [.wait 1000] }) := by
  rw [tick_event (by rw [hp]; rfl) hi]
  unfold onInput waitOver
  simp only [hp]
  rfl

/-- R101: a successful read brings the bytes to RXBUF. -/
theorem tick_read_ok {s : State} {rbytes : List Byte} {rest : List Input} (hp : s.phase = .read)
    (hi : s.inputs = .bus (.ok rbytes) :: rest) (hl : rbytes.length = 3 * s.nresp.toNat) :
    tick s = .next (receive rbytes { s with
      inputs := rest
      trace := s.trace ++ [.read Config.periphAddr (3 * s.nresp.toNat) (some rbytes)] }) := by
  rw [tick_event (by rw [hp]; rfl) hi]
  unfold onInput busAnswer
  simp only [hp]
  unfold readDone
  simp only [if_pos hl]
  rfl

/-- R107: a failed read. -/
theorem tick_read_fail {s : State} {rest : List Input} (hp : s.phase = .read) (hi : s.inputs = .bus .fail :: rest) :
    tick s = .next (raise (.io .read) { s with
      inputs := rest
      trace := s.trace ++ [.read Config.periphAddr (3 * s.nresp.toNat) none] }) := by
  rw [tick_event (by rw [hp]; rfl) hi]
  unfold onInput busAnswer
  simp only [hp]
  rfl

/-- R103, R104: one EXECUTE whose write, settle wait and read succeed brings the block, four phase steps on, to DECODE
with the bytes of the response in RXBUF. -/
theorem run_to_decode {stop : State → Bool} {s : State} {bytes rbytes : List Byte} {rest : List Input} (n : Nat)
    (hp : s.phase = .build) (hn : s.nresp ≠ 0) (hs : s.settleMs ≠ 0)
    (hi : s.inputs = .bus (.ok bytes) :: .waitEnd :: .bus (.ok rbytes) :: rest)
    (hlen : rbytes.length = 3 * s.nresp.toNat) (h0 : stop s = false)
    (h1 : ∀ t : State, t.phase = .write ∨ t.phase = .settle ∨ t.phase = .read → stop t = false) :
    run stop (n + 4) s = run stop n (receive rbytes { buildPhase s with
        timer := 0
        inputs := rest
        trace := s.trace ++ [.write Config.periphAddr ((buildPhase s).txbuf.take (buildPhase s).txlen.toNat) true,
          .wait s.settleMs.toNat, .read Config.periphAddr (3 * s.nresp.toNat) (some rbytes)] }) := by
  refine (run_step (n + 3) h0 (tick_build hp)).trans ?_
  refine (run_step (n + 2) (h1 _ (.inl rfl)) (tick_write_ok (s := buildPhase s) rfl hi hn hs)).trans ?_
  refine (run_step (n + 1) (h1 _ (.inr (.inl rfl)))
    (tick_settle_end (rest := .bus (.ok rbytes) :: rest) rfl rfl)).trans ?_
  refine (run_step n (h1 _ (.inr (.inr rfl)))
    (tick_read_ok (rbytes := rbytes) (rest := rest) rfl rfl (by exact hlen))).trans ?_
  simp [receive]

end Sys2Proof.Machine
end

