-- ==== Sys2Proof/Tests/Slice0.lean ====
section
/-! SUPPORT. Tests. Expected values are those of spec/95_test_vectors.md (V<n>) or written out by hand from the tables
of spec/30_encoding.md. The theorems named `witness_…` show, for each obligation with hypotheses, values that meet all of
them together. -/

namespace Sys2Proof.Tests
open Sys2Proof Sys2Proof.Machine

/-! ### WellFormed: each check refuses an ill-formed term (R8) -/

theorem test_wellFormed_setHumidity : (Instr.cmdSetHumidity 0x0F80 0x62).wellFormed = true := by decide +kernel
theorem test_illFormed_setHumidity : (Instr.cmdSetHumidity 0x0F80 0x63).wellFormed = false := by decide +kernel
theorem test_wellFormed_setBaseline : (Instr.cmdSetBaseline 0x8C11 0x64 0x8A3F 0xA7).wellFormed = true := by
  decide +kernel
theorem test_illFormed_setBaseline_first : (Instr.cmdSetBaseline 0x8C11 0x65 0x8A3F 0xA7).wellFormed = false := by
  decide +kernel
theorem test_illFormed_setBaseline_second : (Instr.cmdSetBaseline 0x8C11 0x64 0x8A3F 0xA6).wellFormed = false := by
  decide +kernel

/-! ### Decoding: words written out from R57, R59, R65 -/

theorem test_decode_cmdSerialId : decode [0x36, 0x82] = .ok .cmdSerialId := by decide +kernel
theorem test_decode_cmdFeatureSet : decode [0x20, 0x2F] = .ok .cmdFeatureSet := by decide +kernel
theorem test_decode_cmdInit : decode [0x20, 0x03] = .ok .cmdInit := by decide +kernel
theorem test_decode_cmdGetBaseline : decode [0x20, 0x15] = .ok .cmdGetBaseline := by decide +kernel
theorem test_decode_cmdSetBaseline :
    decode [0x20, 0x1E, 0x8C, 0x11, 0x64, 0x8A, 0x3F, 0xA7] = .ok (.cmdSetBaseline 0x8C11 0x64 0x8A3F 0xA7) := by
  decide +kernel
theorem test_decode_cmdMeasure : decode [0x20, 0x08] = .ok .cmdMeasure := by decide +kernel
theorem test_decode_cmdRawSignals : decode [0x20, 0x50] = .ok .cmdRawSignals := by decide +kernel
theorem test_decode_cmdSetHumidity : decode [0x20, 0x61, 0x0F, 0x80, 0x62] = .ok (.cmdSetHumidity 0x0F80 0x62) := by
  decide +kernel
theorem test_decode_initialise : decode [0b0000] = .ok .initialise := by decide +kernel
theorem test_decode_initialiseBl : decode [0b0001] = .ok .initialiseBl := by decide +kernel
theorem test_decode_getSerialId : decode [0b0010] = .ok .getSerialId := by decide +kernel
theorem test_decode_getFeatureSet : decode [0b0011] = .ok .getFeatureSet := by decide +kernel
theorem test_decode_measure : decode [0b0100] = .ok .measure := by decide +kernel
theorem test_decode_getBaseline : decode [0b0101] = .ok .getBaseline := by decide +kernel
theorem test_decode_setBaseline : decode [0b0110] = .ok .setBaseline := by decide +kernel
theorem test_decode_getRawSignals : decode [0b0111] = .ok .getRawSignals := by decide +kernel
theorem test_decode_setHumidity : decode [0b1000] = .ok .setHumidity := by decide +kernel

/-- R61, R66, R60, R8, R15: what does not decode, and why. -/
theorem test_decode_refusals :
    decode [] = .error .empty ∧ decode [9] = .error .reservedSelect ∧ decode [15] = .error .reservedSelect ∧
    decode [16] = .error .selectTooWide ∧ decode [0x36, 0x83] = .error .unknownOpcode ∧
    decode [0x20, 0x08, 0x00] = .error .wrongLength ∧ decode [0x20, 0x61] = .error .wrongLength ∧
    decode [0x20, 0x61, 0x0F, 0x80, 0x63] = .error .wrongChecksum := by decide +kernel

/-- Log 9: the numbering of a table word. A row's fixed bits alone, with zero operands, get the codec's checksum. -/
theorem test_decodeTableWord :
    decodeTableWord 4 8 = some .setHumidity ∧ decodeTableWord 4 9 = none ∧
    decodeTableWord 16 0x3682 = some .cmdSerialId ∧ decodeTableWord 16 0x2061 = some (.cmdSetHumidity 0 0x81) ∧
    decodeTableWord 40 0x620F802061 = some (.cmdSetHumidity 0x0F80 0x62) ∧
    decodeTableWord 64 0xA78A3F648C11201E = some (.cmdSetBaseline 0x8C11 0x64 0x8A3F 0xA7) ∧
    decodeTableWord 16 0x2009 = none := by decide +kernel

/-! ### Checksum Unit and Frame Codec -/

/-- V14: the accumulator after byte 0. -/
theorem test_crcFeed : crcFeed 0xFF 0xBE = 0x0C ∧ crcFeed 0x0C 0xEF = 0x92 := by decide +kernel
/-- V16: entries of the table. -/
theorem test_crcTable : crcTable 0x00 = 0x00 ∧ crcTable 0x41 = 0x0C ∧ crcTable 0xE3 = 0x92 ∧ crcTable 0xFF = 0xAC := by
  decide +kernel
/-- V15. -/
theorem test_checksum :
    checksum 0x12 0x34 = 0x37 ∧ checksum 0xFF 0x00 = 0x00 ∧ checksum 0x80 0x00 = 0xA2 ∧ checksum 0xAB 0xCD = 0x6F := by
  decide +kernel
/-- V18. -/
theorem test_verify : verify 0xBE 0xEF 0x92 = true ∧ verify 0xBE 0xEE 0x92 = false ∧ verify 0x90 0x01 0x4C = false := by
  decide +kernel
/-- V5, V19. -/
theorem test_encodeFrame :
    encodeFrame [0xBEEF, 0] = [0xBE, 0xEF, 0x92, 0x00, 0x00, 0x81] ∧ encodeFrame [] = [] := by decide +kernel
/-- V20: the first bad block is named, a later one is not looked at. -/
theorem test_decodeFrame :
    decodeFrame [0xBE, 0xEF, 0x92, 0, 0, 0x80] 2 = .error (.invalidChecksum 0x0000 0x80) ∧
    decodeFrame [0xBE, 0xEF, 0x93, 0, 0, 0x80] 2 = .error (.invalidChecksum 0xBEEF 0x93) ∧
    decodeFrame [0xFF, 0x00, 0x00] 1 = .ok [0xFF00] ∧ decodeFrame [0, 0, 0x81] 2 = .error .badLength := by
  decide +kernel

/-! ### One step of each instruction -/

/-- A trace entry without the address, which is a parameter (R6). -/
inductive Shape where
  | w (bytes : List Byte) (ok : Bool)
  | wait (ms : Nat)
  | r (count : Nat) (result : Option (List Byte))
  deriving DecidableEq, Repr

def shapeOf : BusEvent → Shape
  | .write _ bytes ok => .w bytes ok
  | .wait ms => .wait ms
  | .read _ count result => .r count result

/-- The bytes of a test. -/
def byteList (bytes : List Nat) : List Byte := bytes.map (BitVec.ofNat 8)

/-- The next state of an outcome. -/
def nextOf : Result → Option State
  | .next t => some t
  | .fault _ => none
  | .refused _ => none

theorem exists_next {o : Result} (h : (nextOf o).isSome = true) : ∃ t, o = .next t := by
  cases o with
  | next t => exact ⟨t, rfl⟩
  | fault r => cases h
  | refused r => cases h

/-- The block after reset, with events to come. -/
def fresh (inputs : List Input) : State := { State.reset with inputs := inputs }

/-- The events of a write answered `ok`, the end of a wait and a read that brings `bytes`. -/
def reply (bytes : List Nat) : List Input := [.bus (.ok []), .waitEnd, .bus (.ok (byteList bytes))]

/-- What a test looks at: trace, ERR, DONE, RESCNT, the three result registers, LASTV, POLLCNT. -/
structure View where
  trace : List Shape
  err : Nat
  done : Bool
  rescnt : Nat
  res : List Nat
  lastv : Bool
  pollcnt : Nat
  deriving DecidableEq, Repr

def view (s : State) : View where
  trace := s.trace.map shapeOf
  err := s.err.toNat
  done := s.done
  rescnt := s.rescnt.toNat
  res := [s.res0.toNat, s.res1.toNat, s.res2.toNat]
  lastv := s.lastv
  pollcnt := s.pollcnt.toNat

/-- What a step that runs the table word `w` first after reset leaves (log 8), with events `inputs` to come. -/
def stepView (nbits w : Nat) (s : State) : Option View := (nextOf (step (s.withFetchWord nbits w))).map view

/-- V23, V13: one poll. -/
theorem test_initialise :
    stepView 4 0 (fresh (.bus (.ok []) :: .waitEnd :: reply [0x01, 0xA4, 0x4D, 0x00, 0x07, 0x16])) = some
      { trace := [.w [0x20, 0x03] true, .wait 1000, .w [0x20, 0x08] true, .wait 22,
          .r 6 (some [0x01, 0xA4, 0x4D, 0x00, 0x07, 0x16])]
        err := 0, done := true, rescnt := 2, res := [0x01A4, 0x0007, 0], lastv := true, pollcnt := 1 } := by
  decide +kernel

/-- V25: the second poll arrives corrupt; the first one's Measurement stays. -/
theorem test_initialise_corrupt :
    stepView 4 0 (fresh (.bus (.ok []) :: .waitEnd :: reply [0x01, 0x90, 0x4C, 0, 0, 0x81]
        ++ .waitEnd :: reply [0x01, 0x90, 0x4D, 0, 0, 0x81])) = some
      { trace := [.w [0x20, 0x03] true, .wait 1000, .w [0x20, 0x08] true, .wait 22,
          .r 6 (some [0x01, 0x90, 0x4C, 0, 0, 0x81]), .wait 1000, .w [0x20, 0x08] true, .wait 22,
          .r 6 (some [0x01, 0x90, 0x4D, 0, 0, 0x81])]
        err := 1, done := true, rescnt := 0, res := [400, 0, 0], lastv := true, pollcnt := 1 } := by
  decide +kernel

/-- V23: no wait between the two writes, tvoc first. -/
theorem test_initialiseBl :
    stepView 4 1 { fresh [.bus (.ok []), .bus (.ok [])] with arg0 := 0x8A3F, arg1 := 0x8C11 } = some
      { trace := [.w [0x20, 0x03] true, .w [0x20, 0x1E, 0x8C, 0x11, 0x64, 0x8A, 0x3F, 0xA7] true]
        err := 0, done := true, rescnt := 0, res := [0, 0, 0], lastv := false, pollcnt := 0 } := by decide +kernel

/-- V23. -/
theorem test_getSerialId :
    stepView 4 2 (fresh (reply [0, 0, 0x81, 0x01, 0xA4, 0x4D, 0x8E, 0x5B, 0x5B])) = some
      { trace := [.w [0x36, 0x82] true, .wait 1, .r 9 (some [0, 0, 0x81, 0x01, 0xA4, 0x4D, 0x8E, 0x5B, 0x5B])]
        err := 0, done := true, rescnt := 3, res := [0, 0x01A4, 0x8E5B], lastv := false, pollcnt := 0 } := by
  decide +kernel

/-- V29, line 3: the read fails. -/
theorem test_getSerialId_readFails :
    stepView 4 2 (fresh [.bus (.ok []), .waitEnd, .bus .fail]) = some
      { trace := [.w [0x36, 0x82] true, .wait 1, .r 9 none]
        err := 3, done := true, rescnt := 0, res := [0, 0, 0], lastv := false, pollcnt := 0 } := by decide +kernel

/-- V23. -/
theorem test_getFeatureSet :
    stepView 4 3 (fresh (reply [0x00, 0x22, 0x65])) = some
      { trace := [.w [0x20, 0x2F] true, .wait 2, .r 3 (some [0x00, 0x22, 0x65])]
        err := 0, done := true, rescnt := 1, res := [0x0022, 0, 0], lastv := false, pollcnt := 0 } := by decide +kernel

/-- V29, line 5: the write fails. -/
theorem test_getFeatureSet_writeFails :
    stepView 4 3 (fresh [.bus .fail]) = some
      { trace := [.w [0x20, 0x2F] false]
        err := 3, done := true, rescnt := 0, res := [0, 0, 0], lastv := false, pollcnt := 0 } := by decide +kernel

/-- V23. -/
theorem test_measure :
    stepView 4 4 (fresh (reply [0x01, 0x90, 0x4C, 0, 0, 0x81])) = some
      { trace := [.w [0x20, 0x08] true, .wait 22, .r 6 (some [0x01, 0x90, 0x4C, 0, 0, 0x81])]
        err := 0, done := true, rescnt := 2, res := [0x0190, 0, 0], lastv := true, pollcnt := 0 } := by decide +kernel

/-- V22: block 1 corrupt; nothing is delivered. -/
theorem test_measure_corrupt :
    stepView 4 4 (fresh (reply [0x01, 0x90, 0x4C, 0, 0, 0x80])) = some
      { trace := [.w [0x20, 0x08] true, .wait 22, .r 6 (some [0x01, 0x90, 0x4C, 0, 0, 0x80])]
        err := 1, done := true, rescnt := 0, res := [0, 0, 0], lastv := false, pollcnt := 0 } := by decide +kernel

/-- V23. -/
theorem test_getBaseline :
    stepView 4 5 (fresh (reply [0x8A, 0x3F, 0xA7, 0x8C, 0x11, 0x64])) = some
      { trace := [.w [0x20, 0x15] true, .wait 10, .r 6 (some [0x8A, 0x3F, 0xA7, 0x8C, 0x11, 0x64])]
        err := 0, done := true, rescnt := 2, res := [0x8A3F, 0x8C11, 0], lastv := false, pollcnt := 0 } := by
  decide +kernel

/-- V26: operands are latched when the `start` is accepted. -/
theorem test_setBaseline_latched :
    stepView 4 6 { fresh [.hostWrite 1 0x3333, .bus (.ok [])] with arg0 := 0x1111, arg1 := 0x2222 } = some
      { trace := [.w [0x20, 0x1E, 0x22, 0x22, 0x60, 0x11, 0x11, 0x69] true]
        err := 0, done := true, rescnt := 0, res := [0, 0, 0], lastv := false, pollcnt := 0 } := by decide +kernel

/-- V23. -/
theorem test_getRawSignals :
    stepView 4 7 (fresh (reply [0x35, 0x67, 0x68, 0x4A, 0x1B, 0x4F])) = some
      { trace := [.w [0x20, 0x50] true, .wait 25, .r 6 (some [0x35, 0x67, 0x68, 0x4A, 0x1B, 0x4F])]
        err := 0, done := true, rescnt := 2, res := [0x3567, 0x4A1B, 0], lastv := false, pollcnt := 0 } := by
  decide +kernel

/-- V24: the largest humidity word is sent. -/
theorem test_setHumidity :
    stepView 4 8 { fresh [.bus (.ok [])] with hum := 0x0000FFFF } = some
      { trace := [.w [0x20, 0x61, 0xFF, 0xFF, 0xAC] true]
        err := 0, done := true, rescnt := 0, res := [0, 0, 0], lastv := false, pollcnt := 0 } := by decide +kernel

/-- V26: DOMAIN comes before any bus access. -/
theorem test_setHumidity_domain :
    stepView 4 8 { fresh [.bus .fail] with hum := 0x00010000 } = some
      { trace := [], err := 2, done := true, rescnt := 0, res := [0, 0, 0], lastv := false, pollcnt := 0 } := by
  decide +kernel

/-- V26: a reserved select code. -/
theorem test_reservedSelect :
    stepView 4 12 (fresh []) = some
      { trace := [], err := 4, done := true, rescnt := 0, res := [0, 0, 0], lastv := false, pollcnt := 0 } := by
  decide +kernel

/-- V26: a `start` while busy sets OVR, and the running MEASURE is not disturbed. -/
theorem test_start_while_busy :
    (nextOf (step { fresh ([.start, .bus (.ok []), .hostWrite 0 8, .start]
        ++ [.waitEnd, .bus (.ok (byteList [0x01, 0x9C, 0x31, 0x00, 0x03, 0xD2]))]) with opsel := 4 })).map
      (fun t => (t.ovr, t.opsel.toNat, t.lastEco2.toNat, t.lastTvoc.toNat, t.busy)) = some (true, 8, 412, 3, false) := by
  decide +kernel

/-- V21: the bytes of the wire commands, run as the first instruction after reset. -/
theorem test_wireCommands_without_response :
    (stepView 16 0x201E (fresh [.bus (.ok [])])).map View.trace
      = some [.w [0x20, 0x1E, 0x00, 0x00, 0x81, 0x00, 0x00, 0x81] true] ∧
    (stepView 40 0x620F802061 (fresh [.bus (.ok [])])).map View.trace
      = some [.w [0x20, 0x61, 0x0F, 0x80, 0x62] true] := by decide +kernel

/-- V21. -/
theorem test_wireCommands_with_response :
    (stepView 16 0x3682 (fresh (reply [0, 0, 0x81, 0x01, 0xA4, 0x4D, 0x8E, 0x5B, 0x5B]))).map View.res
      = some [0, 0x01A4, 0x8E5B] ∧
    (stepView 16 0x202F (fresh (reply [0x00, 0x22, 0x65]))).map View.res = some [0x0022, 0, 0] ∧
    (stepView 16 0x2015 (fresh (reply [0x8A, 0x3F, 0xA7, 0x8C, 0x11, 0x64]))).map View.res
      = some [0x8A3F, 0x8C11, 0] ∧
    (stepView 16 0x2008 (fresh (reply [0x01, 0x90, 0x4C, 0, 0, 0x81]))).map View.res = some [400, 0, 0] ∧
    (stepView 16 0x2050 (fresh (reply [0x35, 0x67, 0x68, 0x4A, 0x1B, 0x4F]))).map View.res
      = some [0x3567, 0x4A1B, 0] := by decide +kernel

/-- R113: CMD_INIT, then the wait before the first poll. -/
theorem test_cmdInit :
    (nextOf (step ((fresh [.bus (.ok [])]).withFetchWord 16 0x2003))).map
      (fun t => (t.trace.map shapeOf, t.phase)) = some ([.w [0x20, 0x03] true], .pollwait) := by decide +kernel

/-- V24: the host's conversion. -/
theorem test_humFix : humFix 15.5 = 3968 ∧ humFix (-1) = -256 ∧ humFix 300.7 = 0x12CB3 := by
  refine ⟨?_, ?_, ?_⟩ <;> · rw [humFix, Int.floor_eq_iff]; norm_num

/-- V24: what the host writes to HUM. -/
theorem test_humReg : humReg 15.5 = 0x0F80 ∧ humReg (-1) = 0xFFFFFF00 ∧ humReg 300.7 = 0x00012CB3 := by
  obtain ⟨h1, h2, h3⟩ := test_humFix
  refine ⟨?_, ?_, ?_⟩
  · rw [humReg, h1]; decide
  · rw [humReg, h2]; decide
  · rw [humReg, h3]; decide

/-- R145: the registers after `rst` in the middle of a MEASURE. -/
theorem test_rst_while_busy :
    (nextOf (step { fresh [.start, .bus (.ok []), .rst none] with opsel := 4, ovr := true })).map
      (fun t => (t.busy, t.ovr, t.opsel.toNat, t.trace.map shapeOf))
      = some (false, false, 0, [.w [0x20, 0x08] true]) := by decide +kernel

/-! ### Witnesses of the obligations' hypotheses -/

theorem witness_singleBitFlip : verify 0xBE 0xEF 0x92 = true := by decide +kernel

theorem witness_encodedWordPositions : ([0xBEEF, 0] : List Word)[0]? = some 0xBEEF ∧
    ([0xBEEF, 0] : List Word)[1]? = some 0 := by decide

theorem witness_decodeAnswers :
    decodeFrame [0xBE, 0xEF, 0x92, 0, 0, 0x81] 2 = .ok [0xBEEF, 0] ∧ decodeFrame [] 0 = .ok [] ∧
    (verify 0x00 0x00 0x80 = false ∧ (encodeFrame [0xBEEF] ++ 0x00 :: 0x00 :: 0x80 :: []).length = 3 * 2) ∧
    (verify 0xBE 0xEF 0x93 = false ∧ (encodeFrame [] ++ 0xBE :: 0xEF :: 0x93 :: [0, 0, 0x80]).length = 3 * 2) ∧
    ([0x00, 0x00] : List Byte).length ≠ 3 * 1 := by decide +kernel

theorem witness_singleBitCorruption :
    ([0xBE, 0xEF, 0x92] : List Byte).length = 3 * 1 ∧
    decodeFrame ([0xBE, 0xEF, 0x92] ++ 0x00 :: 0x00 :: 0x81 :: []) 2 = .ok [0xBEEF, 0] ∧
    ([] : List Byte).length = 3 * 0 ∧
    decodeFrame ([] ++ 0xBE :: 0xEF :: 0x92 :: [0x00, 0x00, 0x81]) 2 = .ok [0xBEEF, 0] := by decide +kernel

theorem witness_decodeOfEncode : (Instr.cmdSetBaseline 0x8C11 0x64 0x8A3F 0xA7).wellFormed = true ∧
    Instr.setHumidity.wellFormed = true := by decide +kernel

theorem witness_decodedBytes : decode [0x20, 0x61, 0xFF, 0xFF, 0xAC] = .ok (.cmdSetHumidity 0xFFFF 0xAC) ∧
    decode [8] = .ok .setHumidity := by decide +kernel

/-- MEASURE in phase READ: its write and its settle wait are done, and the transport answers the read next. -/
def reading : State :=
  { fresh [.bus (.ok (byteList [0x01, 0x90, 0x4C, 0x00, 0x00, 0x81]))] with
    opsel := 4, op := 4, busy := true, phase := .read, opc := 0x2008, nresp := 2, settleMs := 22
    txbuf := [0x20, 0x08, 0, 0, 0, 0, 0, 0], txlen := 2
    trace := [.write Config.periphAddr [0x20, 0x08] true, .wait 22] }

/-- MEASURE in phase DECODE, with a good response. -/
def decoding : State :=
  { reading with
    inputs := [], phase := .decode, rxlen := 6, rxbuf := byteList [0x01, 0x90, 0x4C, 0x00, 0x00, 0x81, 0, 0, 0] }

theorem witness_inv_reading : Inv reading where
  idleIffNotBusy := by decide
  notBusyAndDone := by decide
  txbufSize := by decide
  rxbufSize := by decide
  errCodes := by decide
  noErrWhileBusy := by decide
  noResultAfterError := by decide
  checksumPayload := by decide
  valuePayload := by decide
  timerIdle := by decide
  running := fun _ => ⟨.measure, by decide, by decide, by decide, by decide, by decide⟩
  pollwaitOp := by decide
  responding := by decide
  transmitted := by decide
  received := by decide
  pollBound := by decide
  pollsLeft := by decide

theorem witness_inv_decoding : Inv decoding where
  idleIffNotBusy := by decide
  notBusyAndDone := by decide
  txbufSize := by decide
  rxbufSize := by decide
  errCodes := by decide
  noErrWhileBusy := by decide
  noResultAfterError := by decide
  checksumPayload := by decide
  valuePayload := by decide
  timerIdle := by decide
  running := fun _ => ⟨.measure, by decide, by decide, by decide, by decide, by decide⟩
  pollwaitOp := by decide
  responding := by decide
  transmitted := by decide
  received := by decide
  pollBound := by decide
  pollsLeft := by decide

theorem witness_traceInv_reading : TraceInv reading where
  writes := by
    intro addr bytes ok h
    simp only [reading, fresh, List.mem_cons, List.not_mem_nil, or_false] at h
    rcases h with h | h
    · cases h
      exact ⟨rfl, .cmdMeasure, rfl, rfl, rfl⟩
    · cases h
  reads := by
    intro before after addr count result h
    have hm : BusEvent.read addr count result ∈ reading.trace := by
      rw [h]
      simp
    simp [reading] at hm
  settling := by
    intro h
    cases h
  reading := fun _ => ⟨[], rfl⟩

theorem witness_stepKeepsInvariant : (Inv reading ∧ ∃ t, step reading = .next t)
    ∧ Inv decoding ∧ ∃ t, step decoding = .next t :=
  ⟨⟨witness_inv_reading, exists_next (by decide +kernel)⟩, witness_inv_decoding, exists_next (by decide +kernel)⟩

theorem witness_stepKeepsTraceSettled : Inv reading ∧ TraceInv reading ∧ ∃ t, step reading = .next t :=
  ⟨witness_inv_reading, witness_traceInv_reading, exists_next (by decide +kernel)⟩

theorem witness_stepRunsSelectedOperation :
    let s := { fresh [.start] with opsel := 8 }
    s.phase = .idle ∧ s.inputs = .start :: [] ∧ decode [s.opsel.setWidth 8] = .ok .setHumidity := by decide +kernel

theorem witness_stepRunsWireCommand :
    let s := { fresh [] with phase := .build, op := 6, opc := 0x201E, npar := 2, p0 := 0x8C11, p1 := 0x8A3F }
    s.phase = .build ∧ decode (hiByte s.opc :: loByte s.opc :: encodeFrame ([s.p0, s.p1].take s.npar.toNat))
      = .ok (.cmdSetBaseline 0x8C11 0x64 0x8A3F 0xA7) := by decide +kernel

theorem witness_reservedSelectCode :
    let s := fun code => { fresh [.start] with opsel := code }
    ((s 9).phase = .idle ∧ (s 9).busy = false ∧ (s 9).inputs = .start :: [] ∧ 9 ≤ (s 9).opsel.toNat) ∧
    (s 15).phase = .idle ∧ (s 15).busy = false ∧ (s 15).inputs = .start :: [] ∧ 9 ≤ (s 15).opsel.toNat := by decide

theorem witness_operationIsItsPhaseSteps :
    let s := { fresh (.start :: reply [0x01, 0x90, 0x4C, 0x00, 0x00, 0x81]) with opsel := 4 }
    s.phase = .idle ∧ s.busy = false ∧ s.inputs = .start :: reply [0x01, 0x90, 0x4C, 0x00, 0x00, 0x81] ∧
    ∃ u, tick s = .next u := ⟨rfl, rfl, rfl, exists_next (by decide +kernel)⟩

theorem witness_operationRunsToRest :
    let s := fresh (reply [0x01, 0x90, 0x4C, 0x00, 0x00, 0x81])
    Instr.isHostOp .measure = true ∧ s.busy = false ∧ (∃ t, exec .measure s = .next t) ∧
    (fresh []).busy = false ∧ ∃ t, exec .measure (fresh []) = .next t :=
  ⟨rfl, rfl, exists_next (by decide +kernel), rfl, exists_next (by decide +kernel)⟩

theorem witness_onlyBrokenContractsFault : Inv reading ∧ keepsContract reading :=
  ⟨witness_inv_reading, .inr ⟨rfl, rfl⟩⟩

theorem witness_brokenContractsFault :
    let s := { reading with inputs := [.bus (.ok [0x01])] }
    let u := fun phase : Phase => { fresh [.bus .fail] with phase := phase }
    (s.phase = .read ∧ s.inputs = .bus (.ok [0x01]) :: [] ∧ ([0x01] : List Byte).length ≠ 3 * s.nresp.toNat) ∧
    ((u .idle).inputs = .bus .fail :: [] ∧ (u .idle).phase = .idle) ∧
    ((u .settle).inputs = .bus .fail :: [] ∧ (u .settle).phase = .settle) ∧
    (u .pollwait).inputs = .bus .fail :: [] ∧ (u .pollwait).phase = .pollwait := by decide

theorem witness_startWhileBusy :
    let s := { reading with inputs := [.start] }
    s.busy = true ∧ s.inputs = .start :: [] ∧ s.phase ≠ .build ∧ s.phase ≠ .decode ∧
    Instr.isHostOp .setBaseline = true := by decide

theorem witness_hostRegisterPort :
    let s := fun number => fresh [.hostWrite number 0xFFFF1234]
    ((s 0).inputs = .hostWrite 0 0xFFFF1234 :: [] ∧ (s 0).phase ≠ .build ∧ (s 0).phase ≠ .decode) ∧
    ((s 1).inputs = .hostWrite 1 0xFFFF1234 :: [] ∧ (s 1).phase ≠ .build ∧ (s 1).phase ≠ .decode) ∧
    ((s 2).inputs = .hostWrite 2 0xFFFF1234 :: [] ∧ (s 2).phase ≠ .build ∧ (s 2).phase ≠ .decode) ∧
    ((s 3).inputs = .hostWrite 3 0xFFFF1234 :: [] ∧ (s 3).phase ≠ .build ∧ (s 3).phase ≠ .decode) ∧
    ((s 4).inputs = .hostWrite 4 0xFFFF1234 :: [] ∧ (s 4).phase ≠ .build ∧ (s 4).phase ≠ .decode) ∧
    (17 : Nat) ≤ 17 := by decide

theorem witness_operandRegisters :
    (∀ e ∈ reading.inputs, (∀ n v, e ≠ .hostWrite n v) ∧ ∀ c, e ≠ .rst c) ∧ ∃ t, step reading = .next t := by
  refine ⟨?_, exists_next (by decide +kernel)⟩
  simp [reading, fresh]

theorem witness_stickyFlags :
    let s := { fresh [.start] with ovr := true, lastv := true, opsel := 12 }
    (∀ e ∈ s.inputs, ∀ c, e ≠ .rst c) ∧ (∃ t, step s = .next t) ∧ s.ovr = true ∧ s.lastv = true := by
  refine ⟨?_, exists_next (by decide +kernel), rfl, rfl⟩
  simp [fresh]

theorem witness_lastMeasurementWriters :
    Inv decoding ∧ (∀ c rest, decoding.inputs ≠ .rst c :: rest) ∧ (∃ t, tick decoding = .next t) ∧
    Inv reading ∧ (∀ c rest, reading.inputs ≠ .rst c :: rest) ∧ ∃ t, tick reading = .next t := by
  refine ⟨witness_inv_decoding, ?_, exists_next (by decide +kernel), witness_inv_reading, ?_,
    exists_next (by decide +kernel)⟩ <;> simp [decoding, reading, fresh]

theorem witness_runningOperationIgnoresHost :
    let s := fresh [.bus (.ok []), .hostWrite 0 8, .start, .waitEnd, .bus (.ok (byteList [0, 0x22, 0x65]))]
    Instr.isHostOp .getFeatureSet = true ∧ s.busy = false ∧ (∀ e ∈ s.inputs, ∀ c, e ≠ .rst c) ∧
    ∃ t, exec .getFeatureSet s = .next t := by
  refine ⟨rfl, rfl, ?_, exists_next (by decide +kernel)⟩
  simp [fresh]

theorem witness_noEventNoChange :
    let s := { reading with inputs := [] }
    s.inputs = [] ∧ s.phase ≠ .build ∧ s.phase ≠ .decode := by decide

theorem witness_resetAbandonsOperation :
    let s := fun c : Option BusResponse => { reading with inputs := [.rst c] }
    let w := fun c : Option BusResponse => { reading with inputs := [.rst c], phase := .write }
    ((s none).inputs = .rst none :: [] ∧ (s none).phase ≠ .build ∧ (s none).phase ≠ .decode) ∧
    ((fresh [.rst (some .fail)]).inputs = .rst (some .fail) :: [] ∧ (fresh [.rst (some .fail)]).phase = .idle) ∧
    ((w (some (.ok []))).inputs = .rst (some (.ok [])) :: [] ∧ (w (some (.ok []))).phase = .write) ∧
    ((s (some (.ok [0, 0, 0x81, 0, 0, 0x81]))).inputs = .rst (some (.ok [0, 0, 0x81, 0, 0, 0x81])) :: [] ∧
      (s none).phase = .read ∧ ([0, 0, 0x81, 0, 0, 0x81] : List Byte).length = 3 * (s none).nresp.toNat) ∧
    ((w (some .fail)).inputs = .rst (some .fail) :: [] ∧ (w (some .fail)).phase = .write) ∧
    (s (some .fail)).inputs = .rst (some .fail) :: [] ∧ (s (some .fail)).phase = .read := by decide

theorem witness_timerCountsDown :
    let s := fun (phase : Phase) (n : Nat) => { fresh [.clk n] with phase := phase, timer := 5 }
    let w := { reading with phase := .write, inputs := [.bus (.ok [])] }
    (w.inputs = .bus (.ok []) :: [] ∧ w.phase = .write ∧ w.nresp ≠ 0 ∧ w.settleMs ≠ 0) ∧
    ((s .settle 4).inputs = .clk 4 :: [] ∧ (s .settle 4).phase = .settle ∧ 4 < (s .settle 4).timer) ∧
    ((s .pollwait 4).inputs = .clk 4 :: [] ∧ (s .pollwait 4).phase = .pollwait ∧ 4 < (s .pollwait 4).timer) ∧
    ((s .settle 5).inputs = .clk 5 :: [] ∧ (s .settle 5).phase = .settle ∧ (s .settle 5).timer ≤ 5) ∧
    ((s .pollwait 5).inputs = .clk 5 :: [] ∧ (s .pollwait 5).phase = .pollwait ∧ (s .pollwait 5).timer ≤ 5) ∧
    (s .idle 5).inputs = .clk 5 :: [] ∧ (s .idle 5).phase = .idle := by decide

theorem witness_humidityConversion : ((0 : ℚ) ≤ 255.99609375 ∧ (255.99609375 : ℚ) < 256) ∧
    (-0x80000000 ≤ ⌊(15.5 : ℚ) * 256⌋ ∧ ⌊(15.5 : ℚ) * 256⌋ ≤ 0x7FFFFFFF) ∧
    ⌊(-8388609 : ℚ) * 256⌋ < -0x80000000 ∧ 0x7FFFFFFF < ⌊(8388608 : ℚ) * 256⌋ := by
  have h1 : ⌊(15.5 : ℚ) * 256⌋ = 3968 := by rw [Int.floor_eq_iff]; norm_num
  have h2 : ⌊(-8388609 : ℚ) * 256⌋ = -2147483904 := by rw [Int.floor_eq_iff]; norm_num
  have h3 : ⌊(8388608 : ℚ) * 256⌋ = 2147483648 := by rw [Int.floor_eq_iff]; norm_num
  rw [h1, h2, h3]
  norm_num

theorem witness_hostResults :
    let s := fun ws => fresh (answers ws ++ [.start])
    ((s [1, 2, 3]).busy = false ∧ (s [1, 2, 3]).inputs = answers [1, 2, 3] ++ [.start]) ∧
    ((s [0x22]).busy = false ∧ (s [0x22]).inputs = answers [0x22] ++ [.start]) ∧
    (s [400, 0]).busy = false ∧ (s [400, 0]).inputs = answers [400, 0] ++ [.start] := by decide +kernel

theorem witness_setBaselineResult :
    (fresh [.bus (.ok [])]).busy = false ∧ (fresh [.bus (.ok [])]).inputs = .bus (.ok []) :: [] := by decide

theorem witness_initialiseBlResult :
    let s := fresh [.bus (.ok []), .bus (.ok [])]
    s.busy = false ∧ s.inputs = .bus (.ok []) :: .bus (.ok []) :: [] := by decide

theorem witness_setHumidityResult :
    let s := fun hum => { fresh [.bus (.ok [])] with hum := hum }
    ((s 0).busy = false ∧ 0 ≤ (s 0).hum.toInt ∧ (s 0).hum.toInt ≤ 0xFFFF ∧ (s 0).inputs = .bus (.ok []) :: []) ∧
    (s 0xFFFF).busy = false ∧ 0 ≤ (s 0xFFFF).hum.toInt ∧ (s 0xFFFF).hum.toInt ≤ 0xFFFF ∧
    (s 0xFFFF).inputs = .bus (.ok []) :: [] := by decide

theorem witness_setHumidityDomainError :
    let s := fun hum => { fresh [.bus (.ok [])] with hum := hum }
    ((s 0x10000).busy = false ∧ 0xFFFF < (s 0x10000).hum.toInt) ∧
    (s 0xFFFFFFFF).busy = false ∧ (s 0xFFFFFFFF).hum.toInt < 0 := by decide

/-- Nineteen polls that read 400. -/
def sentinels : List (Word × Word) := List.replicate 19 (400, 0)

theorem sentinels_read_400 : ∀ w ∈ sentinels, w.1 = 400 :=
  fun w hw => by rw [List.eq_of_mem_replicate hw]

theorem witness_initialiseResult :
    let s := fun early final => fresh (.bus (.ok []) :: pollAnswers (early ++ [final]) ++ [])
    ((s sentinels (400, 0)).busy = false ∧ warmUp sentinels (400, 0) ∧
      (s sentinels (400, 0)).inputs = .bus (.ok []) :: pollAnswers (sentinels ++ [(400, 0)]) ++ []) ∧
    ((s [] (399, 7)).busy = false ∧ warmUp [] (399, 7) ∧
      (s [] (399, 7)).inputs = .bus (.ok []) :: pollAnswers ([] ++ [(399, 7)]) ++ []) := by
  exact ⟨⟨rfl, ⟨sentinels_read_400, by decide, .inr (by decide)⟩, rfl⟩, rfl,
    ⟨by simp, by decide, .inl (by decide)⟩, rfl⟩

theorem witness_initialisePollReadFails :
    let s := fun early => fresh (.bus (.ok []) :: pollAnswers early
      ++ .waitEnd :: .bus (.ok []) :: .waitEnd :: .bus .fail :: [])
    ((s []).busy = false ∧ (∀ w ∈ ([] : List (Word × Word)), w.1 = 400) ∧ ([] : List (Word × Word)).length < 20) ∧
    (s sentinels).busy = false ∧ (∀ w ∈ sentinels, w.1 = 400) ∧ sentinels.length < 20 := by
  exact ⟨⟨rfl, by simp, by decide⟩, rfl, sentinels_read_400, by decide⟩

theorem witness_initialisePollWriteFails :
    let s := fun early => fresh (.bus (.ok []) :: pollAnswers early ++ .waitEnd :: .bus .fail :: [])
    ((s []).busy = false ∧ (∀ w ∈ ([] : List (Word × Word)), w.1 = 400) ∧ ([] : List (Word × Word)).length < 20 ∧
      (s []).inputs = .bus (.ok []) :: pollAnswers [] ++ .waitEnd :: .bus .fail :: []) ∧
    (s sentinels).busy = false ∧ (∀ w ∈ sentinels, w.1 = 400) ∧ sentinels.length < 20 ∧
    (s sentinels).inputs = .bus (.ok []) :: pollAnswers sentinels ++ .waitEnd :: .bus .fail :: [] :=
  ⟨⟨rfl, by simp, by decide, rfl⟩, rfl, sentinels_read_400, by decide, rfl⟩

/-- The response of a poll whose block 0 is good and whose block 1 is not (V22). -/
def corruptPoll : List Byte := encodeFrame [400] ++ 0x00 :: 0x00 :: 0x80 :: []

theorem witness_initialisePollCorrupt :
    let events := fun early => .bus (.ok []) :: pollAnswers early
      ++ .waitEnd :: .bus (.ok []) :: .waitEnd :: .bus (.ok corruptPoll) :: []
    ((fresh (events [])).busy = false ∧ (∀ w ∈ ([] : List (Word × Word)), w.1 = 400) ∧
      ([] : List (Word × Word)).length < 20 ∧ (fresh (events [])).inputs = events []) ∧
    ((fresh (events sentinels)).busy = false ∧ (∀ w ∈ sentinels, w.1 = 400) ∧ sentinels.length < 20 ∧
      (fresh (events sentinels)).inputs = events sentinels) ∧
    verify 0x00 0x00 0x80 = false ∧ corruptPoll.length = 6 :=
  ⟨⟨rfl, by simp, by decide, rfl⟩, ⟨rfl, sentinels_read_400, by decide, rfl⟩, by decide +kernel, by decide +kernel⟩

theorem witness_firstWriteFails :
    (Instr.initialise, 0, WireCmd.init) ∈ (Instr.initialise, (0 : BitVec 4), WireCmd.init) :: readingOps ∧
    (Instr.getRawSignals, 7, WireCmd.rawSignals) ∈ (Instr.initialise, (0 : BitVec 4), WireCmd.init) :: readingOps ∧
    (fresh [.bus .fail]).busy = false ∧ (fresh [.bus .fail]).inputs = .bus .fail :: [] := by decide

theorem witness_parameterWriteFails :
    let s := { fresh [.bus .fail] with hum := 0xFFFF }
    let u := fresh [.bus (.ok []), .bus .fail]
    (s.busy = false ∧ 0 ≤ s.hum.toInt ∧ s.hum.toInt ≤ 0xFFFF ∧ s.inputs = .bus .fail :: []) ∧
    u.busy = false ∧ u.inputs = .bus (.ok []) :: .bus .fail :: [] := by decide

theorem witness_readFails :
    let s := fresh [.bus (.ok []), .waitEnd, .bus .fail]
    (Instr.getSerialId, 2, WireCmd.serialId) ∈ readingOps ∧ s.busy = false ∧
    s.inputs = .bus (.ok []) :: .waitEnd :: .bus .fail :: [] := by decide

theorem witness_corruptResponse :
    let s := fresh [.bus (.ok []), .waitEnd, .bus (.ok (encodeFrame [400] ++ 0 :: 0 :: 0x80 :: []))]
    (Instr.measure, 4, WireCmd.measure) ∈ readingOps ∧ s.busy = false ∧ verify 0 0 0x80 = false ∧
    (encodeFrame [400] ++ 0 :: 0 :: 0x80 :: []).length = readLength .measure ∧
    s.inputs = .bus (.ok []) :: .waitEnd :: .bus (.ok (encodeFrame [400] ++ 0 :: 0 :: 0x80 :: [])) :: [] := by
  decide +kernel

theorem witness_cmdWriteResults :
    let s := fun op => { fresh [.bus (.ok [])] with op := op }
    ((s 0).op = 0 ∧ (s 1).op = 1 ∧ (s 6).op = 6 ∧ (s 8).op = 8) ∧
    (Instr.cmdSetBaseline 0x8C11 0x64 0x8A3F 0xA7).wellFormed = true ∧
    (Instr.cmdSetHumidity 0x0F80 0x62).wellFormed = true ∧ (s 8).inputs = .bus (.ok []) :: [] := by decide +kernel

theorem witness_cmdReadingResults :
    let s := fun op ws => { fresh (answers ws ++ []) with op := op }
    ((s 2 [1, 2, 3]).op = 2 ∧ (s 2 [1, 2, 3]).inputs = answers [1, 2, 3] ++ []) ∧
    ((s 3 [1]).op = 3 ∧ (s 3 [1]).inputs = answers [1] ++ []) ∧
    ((s 5 [1, 2]).op = 5 ∧ (s 5 [1, 2]).inputs = answers [1, 2] ++ []) ∧
    (s 7 [1, 2]).op = 7 ∧ (s 7 [1, 2]).inputs = answers [1, 2] ++ [] := by decide +kernel

theorem witness_cmdMeasureResult :
    let s := fun op pollcnt ws => { fresh (answers ws ++ []) with op := op, pollcnt := pollcnt }
    ((s 4 0 [400, 0]).op = 4 ∧ (s 4 0 [400, 0]).inputs = answers [400, 0] ++ []) ∧
    ((s 0 19 [400, 0]).op = 0 ∧ (s 0 19 [400, 0]).pollcnt = 19 ∧
      (s 0 19 [400, 0]).inputs = answers [400, 0] ++ []) ∧
    ((s 0 0 [401, 0]).op = 0 ∧ (401 : Word) ≠ 400 ∧ (s 0 0 [401, 0]).inputs = answers [401, 0] ++ []) ∧
    (s 0 18 [400, 0]).op = 0 ∧ (400 : Word) = 400 ∧ (s 0 18 [400, 0]).pollcnt ≠ 19 := by decide +kernel

theorem witness_wireWriteFails :
    Instr.isHostOp (.cmdSetHumidity 0x0F80 0x62) = false ∧ (Instr.cmdSetHumidity 0x0F80 0x62).wellFormed = true ∧
    (fresh [.bus .fail]).inputs = .bus .fail :: [] := by decide +kernel

theorem witness_wireReadFails :
    (Instr.cmdSerialId, WireCmd.serialId) ∈ readingCmds ∧ (Instr.cmdRawSignals, WireCmd.rawSignals) ∈ readingCmds ∧
    (fresh [.bus (.ok []), .waitEnd, .bus .fail]).inputs = .bus (.ok []) :: .waitEnd :: .bus .fail :: [] := by decide

theorem witness_wireCorruptResponse :
    (Instr.cmdMeasure, WireCmd.measure) ∈ readingCmds ∧ verify 0x00 0x00 0x80 = false ∧
    (encodeFrame [400] ++ 0x00 :: 0x00 :: 0x80 :: []).length = readLength .measure ∧
    (fresh [.bus (.ok []), .waitEnd, .bus (.ok corruptPoll)]).inputs
      = .bus (.ok []) :: .waitEnd :: .bus (.ok (encodeFrame [400] ++ 0x00 :: 0x00 :: 0x80 :: [])) :: [] := by
  decide +kernel

theorem witness_hostLine :
    let m := hostLineEvents .measure
    let b := hostLineEvents (.setBaseline 0x8A3F 0x8C11)
    let i := hostLineEvents (.initialise (some (0x8A3F, 0x8C11)))
    let h := hostLineEvents (.setHumidity 15.5)
    (fresh (m ++ [])).phase = .idle ∧
    (HostLine.measure, (4 : BitVec 4)) ∈ [(HostLine.initialise none, 0), (.getSerialId, 2), (.getFeatureSet, 3),
      (.measure, 4), (.getBaseline, 5), (.getRawSignals, 7)] ∧
    (fresh (m ++ [])).inputs = m ++ [] ∧ (fresh (b ++ [])).inputs = b ++ [] ∧ (fresh (i ++ [])).inputs = i ++ [] ∧
    (fresh (h ++ [])).inputs = h ++ [] := ⟨rfl, by simp, rfl, rfl, rfl, rfl⟩

end Sys2Proof.Tests
end

section
/-! PROOF. The merged step at a `start` pulse on an idle block, the decoding of the byte that OPSEL gives, and what a
reserved select code leaves behind. -/

namespace Sys2Proof.Machine
open Sys2Proof

/-- R25: a `start` pulse that finds the block idle is taken from the events and starts what OPSEL selects. -/
theorem step_start {s : State} {rest : List Input} (hp : s.phase = .idle) (hi : s.inputs = .start :: rest) :
    step s = stepStart { s with inputs := rest } := by
  simp only [step, hp, hi]

/-- R65: a 4-bit select code as the byte an instruction has decodes as that code; it is never too wide (R15). -/
@[simp] theorem decode_setWidth_select (code : BitVec 4) : decode [code.setWidth 8] = decodeSelect code := by
  have small : (code.setWidth 8).toNat < 16 := by
    rw [BitVec.toNat_setWidth_of_le (by decide)]
    exact code.isLt
  have narrow : (code.setWidth 8).setWidth 4 = code := by
    rw [BitVec.setWidth_setWidth_of_le code (by decide), BitVec.setWidth_eq]
  rw [decode, if_pos small, narrow]

/-- R66: with a reserved code in OPSEL the start is refused without any instruction running. -/
theorem stepStart_reserved {s : State} (h : 9 ≤ s.opsel.toNat) : stepStart s = .next (beginReserved s.opsel s) := by
  have reserved : decode (fetchSelect s) = .error .reservedSelect :=
    (decode_setWidth_select s.opsel).trans ((decodeSelect_error_iff s.opsel).2 h)
  simp only [stepStart, reserved]

/-- R25, R134: the registers that accepting a reserved code and raising ILLEGAL_OP write, and no other. -/
theorem beginReserved_eq (code : BitVec 4) (s : State) :
    beginReserved code s = { s with op := code, err := 4, errdata := 0, errcrc := 0, errval := code.setWidth 32,
                                    rescnt := 0, busy := false, done := true, pollcnt := 0, phase := .idle } := rfl

/-- Settles O17: the step is `stepStart`, a reserved code makes that `beginReserved`, whose fields are known. -/
theorem reservedSelectCode : Obligations.ReservedSelectCode := by
  intro s rest hp _ hi hcode
  calc step s
      = stepStart { s with inputs := rest } := step_start hp hi
    _ = .next (beginReserved s.opsel { s with inputs := rest }) := stepStart_reserved hcode
    _ = _ := by rw [beginReserved_eq]

end Sys2Proof.Machine
end

section
/-! PROOF. The Checksum Unit: every stage of CHECKSUM is injective, so what differs in one byte has another checksum; and
the accumulator that is masked once runs in step with the 8-bit one. -/

namespace Sys2Proof.Machine

/-- R78: the table is the bit step applied eight times. -/
theorem crcTable_eq_iterate : crcTable = crcStep^[8] := rfl

/-- Bit 0 of the polynomial is set and the shift leaves bit 0 clear, so the bit step keeps in bit 0 the bit 7 that it
tested and shifted out. -/
theorem crcStep_getLsbD_zero (a : Byte) : (crcStep a).getLsbD 0 = a.getLsbD 7 := by
  cases h : a.getLsbD 7
  case true => simp [crcStep, crcPoly, h]
  case false => simp [crcStep, -BitVec.getLsbD_eq_getElem, h]

/-- A Byte is known from its bit 7 and what a shift left by one leaves of it. -/
theorem eq_of_shiftLeft_one_eq {a b : Byte} (top : a.getLsbD 7 = b.getLsbD 7) (shifted : a <<< 1 = b <<< 1) :
    a = b := by
  apply BitVec.eq_of_getLsbD_eq
  intro i hi
  by_cases h7 : i = 7
  · rw [h7, top]
  · have bit := congrArg (·.getLsbD (i + 1)) shifted
    have small : i + 1 < 8 := by omega
    simpa [-BitVec.getLsbD_eq_getElem, BitVec.getLsbD_shiftLeft, small] using bit

/-- R72: the bit step loses nothing: bit 0 of the result tells which branch was taken, and that branch can be undone. -/
theorem crcStep_injective : Function.Injective crcStep := by
  intro a b h
  have top : a.getLsbD 7 = b.getLsbD 7 := by
    rw [← crcStep_getLsbD_zero, h, crcStep_getLsbD_zero]
  have shifted : a <<< 1 = b <<< 1 := by
    unfold crcStep at h
    rw [top] at h
    split at h
    · exact (BitVec.xor_left_inj _).1 h
    · exact h
  exact eq_of_shiftLeft_one_eq top shifted

theorem crcTable_injective : Function.Injective crcTable :=
  crcTable_eq_iterate ▸ crcStep_injective.iterate 8

/-- R73: two bytes fed into one accumulator leave the same accumulator only when they are the same. -/
@[simp] theorem crcFeed_right_inj (a b b' : Byte) : crcFeed a b = crcFeed a b' ↔ b = b' :=
  crcTable_injective.eq_iff.trans (BitVec.xor_right_inj a)

/-- R73: a byte fed into two accumulators makes them the same only when they were. -/
@[simp] theorem crcFeed_left_inj (a a' b : Byte) : crcFeed a b = crcFeed a' b ↔ a = a' :=
  crcTable_injective.eq_iff.trans (BitVec.xor_left_inj b)

@[simp] theorem checksum_left_inj (b0 b0' b1 : Byte) : checksum b0 b1 = checksum b0' b1 ↔ b0 = b0' := by
  simp only [checksum, crcFeed_left_inj, crcFeed_right_inj]

@[simp] theorem checksum_right_inj (b0 b1 b1' : Byte) : checksum b0 b1 = checksum b0 b1' ↔ b1 = b1' := by
  simp only [checksum, crcFeed_right_inj]

theorem flipBit_ne (b : Byte) (i : Fin 8) : flipBit b i ≠ b := by
  have mask : ∀ j : Fin 8, (1#8 <<< j.val) ≠ 0#8 := by decide
  intro h
  exact mask i ((BitVec.xor_right_inj b).1 (h.trans BitVec.xor_zero.symm))

/-- R80: a block does not verify when its third byte is not the checksum. -/
theorem verify_eq_false_iff (b0 b1 c : Byte) : verify b0 b1 c = false ↔ c ≠ checksum b0 b1 := by
  rw [Bool.eq_false_iff, ne_eq, verify_iff]

/-- Settles O3: the checksum is injective in each data byte, and a flipped bit makes another byte. -/
theorem singleBitFlipNeverVerifies : Obligations.SingleBitFlipNeverVerifies := by
  constructor
  · intro b0 b1 c i h
    obtain rfl := (verify_iff b0 b1 c).1 h
    simp only [verify_eq_false_iff, ne_eq, checksum_left_inj, checksum_right_inj]
    exact ⟨flipBit_ne _ i, (flipBit_ne b0 i).symm, (flipBit_ne b1 i).symm⟩
  · intro b0 b1
    exact ⟨checksum b0 b1, (verify_iff b0 b1 _).2 rfl, fun c h => (verify_iff b0 b1 c).1 h⟩

/-- Settles O1: the four vectors of R82, each evaluated. -/
theorem checksumKnownVectors : Obligations.ChecksumKnownVectors := by
  unfold Obligations.ChecksumKnownVectors
  decide +kernel

/-- R75 (b): a shift left brings no bit from above bit 7 down, so the mask may be taken before it. -/
theorem ofNat_shiftLeft_one (a : Nat) : BitVec.ofNat 8 (a <<< 1) = BitVec.ofNat 8 a <<< 1 := by
  apply BitVec.eq_of_toNat_eq
  simp [Nat.shiftLeft_eq]

/-- R75 (a): bit 7, the one that is tested, is the same before the mask and after it. -/
theorem getLsbD_seven_ofNat (a : Nat) : (BitVec.ofNat 8 a).getLsbD 7 = a.testBit 7 := by
  rw [BitVec.getLsbD_ofNat, decide_eq_true (by decide), Bool.true_and]

/-- R75: masking after a bit step on the growing accumulator is the 8-bit bit step on the masked one. -/
theorem semiconj_ofNat_crcStepWide : Function.Semiconj (BitVec.ofNat 8) crcStepWide crcStep := by
  intro a
  unfold crcStepWide crcStep
  rw [getLsbD_seven_ofNat, ← ofNat_shiftLeft_one]
  split
  · rw [BitVec.ofNat_xor, BitVec.ofNat_toNat, BitVec.setWidth_eq]
  · rfl

/-- R75: the same for a whole byte, fed by XOR and then eight bit steps. -/
theorem ofNat_crcFeedWide (a : Nat) (b : Byte) :
    BitVec.ofNat 8 (crcFeedWide a b) = crcFeed (BitVec.ofNat 8 a) b :=
  calc BitVec.ofNat 8 (crcFeedWide a b)
      = crcTable (BitVec.ofNat 8 (a ^^^ b.toNat)) := semiconj_ofNat_crcStepWide.iterate_right 8 (a ^^^ b.toNat)
    _ = crcFeed (BitVec.ofNat 8 a) b := by
      rw [BitVec.ofNat_xor, BitVec.ofNat_toNat, BitVec.setWidth_eq, crcFeed]

/-- Settles O2: the mask moves inwards past one byte and then past the other, down to the initial value. -/
theorem maskingOnceEqualsMaskingEveryShift : Obligations.MaskingOnceEqualsMaskingEveryShift := by
  intro b0 b1
  calc checksumMaskedOnce b0 b1
      = crcFeed (BitVec.ofNat 8 (crcFeedWide crcInit.toNat b0)) b1 := ofNat_crcFeedWide _ b1
    _ = crcFeed (crcFeed (BitVec.ofNat 8 crcInit.toNat) b0) b1 := by rw [ofNat_crcFeedWide]
    _ = checksum b0 b1 := rfl

end Sys2Proof.Machine
end

section
/-! PROOF. The Frame Codec: DECODE past a run of good blocks, the frames DECODE answers with words, and the cut of a
frame at a block boundary, which places each word and each flipped bit in its block. -/

namespace Sys2Proof.Machine
open Sys2Proof

/-- R89: DECODE of a frame that begins with good blocks answers their words and then what it answers on the rest. -/
theorem decodeBlocks_encodeFrame_append (good : List Word) (rest : List Byte) :
    decodeBlocks (encodeFrame good ++ rest) = (decodeBlocks rest).map (good ++ ·) := by
  induction good with
  | nil => cases h : decodeBlocks rest <;> simp [Except.map, h]
  | cons w ws ih =>
    simp only [encodeFrame_cons, List.cons_append, decodeBlocks_good, ih]
    cases decodeBlocks rest <;> rfl

@[simp] theorem decodeBlocks_encodeFrame (ws : List Word) : decodeBlocks (encodeFrame ws) = .ok ws := by
  simpa [decodeBlocks, Except.map] using decodeBlocks_encodeFrame_append ws []

/-- R89: only blocks that verify give words, and a block that verifies is the one ENCODE makes of its word. -/
theorem eq_encodeFrame_of_decodeBlocks {frame : List Byte} {ws : List Word} (h : decodeBlocks frame = .ok ws) :
    frame = encodeFrame ws := by
  fun_induction decodeBlocks frame generalizing ws with
  | case1 b0 b1 c rest good vs decoded ih =>
    cases h
    rw [encodeFrame, block_of_verify good, ← ih decoded]
    rfl
  | case2 | case3 | case5 => cases h
  | case4 => cases h; rfl

/-- R91: a frame of another length is outside DECODE's domain. -/
theorem decodeFrame_of_length_ne {frame : List Byte} {n : Nat} (h : frame.length ≠ 3 * n) :
    decodeFrame frame n = .error .badLength := if_neg h

/-- R89, R91: DECODE answers words exactly for the frame ENCODE makes of them with their count. -/
theorem decodeFrame_eq_ok_iff {frame : List Byte} {n : Nat} {ws : List Word} :
    decodeFrame frame n = .ok ws ↔ frame = encodeFrame ws ∧ n = ws.length := by
  constructor
  · intro h
    by_cases len : frame.length = 3 * n
    · rw [decodeFrame_of_length len] at h
      have encoded := eq_encodeFrame_of_decodeBlocks h
      rw [encoded, encodeFrame_length] at len
      exact ⟨encoded, by omega⟩
    · simp [decodeFrame_of_length_ne len] at h
  · rintro ⟨rfl, rfl⟩
    rw [decodeFrame_of_length (encodeFrame_length ws), decodeBlocks_encodeFrame]

/-- R89, R90: after good blocks, DECODE stops at the first that does not verify and hands over its bytes. -/
theorem decodeFrame_firstBad (good : List Word) {b0 b1 c : Byte} {after : List Byte} {n : Nat}
    (bad : verify b0 b1 c = false) (len : (encodeFrame good ++ b0 :: b1 :: c :: after).length = 3 * n) :
    decodeFrame (encodeFrame good ++ b0 :: b1 :: c :: after) n = .error (.invalidChecksum (wordOf b0 b1) c) := by
  rw [decodeFrame_of_length len, decodeBlocks_encodeFrame_append, decodeBlocks_bad after bad]
  rfl

/-- Settles O4: the frame ENCODE makes of the words is the one that decodes to them. -/
theorem frameRoundTrip : Obligations.FrameRoundTrip :=
  fun _ => decodeFrame_eq_ok_iff.2 ⟨rfl, rfl⟩

/-- Settles O6: the frames that give words, the first block that does not verify, and the length precondition. -/
theorem decodeAnswers : Obligations.DecodeAnswers :=
  ⟨fun _ _ _ => decodeFrame_eq_ok_iff, fun good _ _ _ _ _ => decodeFrame_firstBad good,
    fun _ _ => decodeFrame_of_length_ne⟩

/-- R84: the blocks from the `i`-th on begin at byte `3i`. -/
theorem drop_encodeFrame (ws : List Word) (i : Nat) : (encodeFrame ws).drop (3 * i) = encodeFrame (ws.drop i) := by
  induction ws generalizing i with
  | nil => simp
  | cons w ws ih =>
    cases i with
    | zero => rfl
    | succ i => simpa [Nat.mul_succ] using ih i

/-- R84: the first `i` blocks are the first `3i` bytes. -/
theorem take_encodeFrame (ws : List Word) (i : Nat) : (encodeFrame ws).take (3 * i) = encodeFrame (ws.take i) := by
  induction ws generalizing i with
  | nil => simp
  | cons w ws ih =>
    cases i with
    | zero => rfl
    | succ i => simpa [Nat.mul_succ] using ih i

/-- Settles O5: from byte `3i` on the frame is the block of word `i` and the blocks of the words after it. -/
theorem encodedWordPositions : Obligations.EncodedWordPositions := by
  intro ws
  refine ⟨encodeFrame_length ws, fun i w hw => ?_⟩
  obtain ⟨hi, rfl⟩ := List.getElem?_eq_some_iff.1 hw
  have fromBlock : (encodeFrame ws).drop (3 * i) = block ws[i] ++ encodeFrame (ws.drop (i + 1)) := by
    rw [drop_encodeFrame, List.drop_eq_getElem_cons hi, encodeFrame]
  have byteAt (k : Nat) : (encodeFrame ws)[3 * i + k]? = (block ws[i] ++ encodeFrame (ws.drop (i + 1)))[k]? := by
    rw [← fromBlock, List.getElem?_drop]
  exact ⟨byteAt 0, byteAt 1, byteAt 2⟩

/-- R56, R84: a frame of words, cut at a block boundary, is the frame of the words before the cut; the block that
follows verifies. -/
theorem encodeFrame_split {before after : List Byte} {b0 b1 c : Byte} {m : Nat} {ws : List Word}
    (len : before.length = 3 * m) (h : before ++ b0 :: b1 :: c :: after = encodeFrame ws) :
    before = encodeFrame (ws.take m) ∧ verify b0 b1 c = true := by
  have front : before = encodeFrame (ws.take m) := by
    rw [← take_encodeFrame, ← h, ← len, List.take_left]
  have back : b0 :: b1 :: c :: after = encodeFrame (ws.drop m) := by
    rw [← drop_encodeFrame, ← h, ← len, List.drop_left]
  refine ⟨front, ?_⟩
  cases hd : ws.drop m with
  | nil => simp [hd] at back
  | cons w vs =>
    rw [hd, encodeFrame_cons] at back
    injection back with h0 back
    injection back with h1 back
    injection back with h2
    rw [h0, h1, h2, verify_wordChecksum]

/-- Settles O7: the blocks before the flipped bit are still good, and the block that holds it no longer verifies. -/
theorem singleBitCorruptionDetected : Obligations.SingleBitCorruptionDetected := by
  intro before after b0 b1 c m n ws i len h
  obtain ⟨encoded, count⟩ := decodeFrame_eq_ok_iff.1 h
  obtain ⟨rfl, good⟩ := encodeFrame_split len encoded
  obtain ⟨badCrc, badHigh, badLow⟩ := singleBitFlipNeverVerifies.1 b0 b1 c i good
  have total : (encodeFrame (ws.take m) ++ b0 :: b1 :: c :: after).length = 3 * n := by
    rw [encoded, encodeFrame_length, count]
  refine ⟨decodeFrame_firstBad _ badHigh ?_, decodeFrame_firstBad _ badLow ?_, decodeFrame_firstBad _ badCrc ?_⟩ <;>
    simpa using total

end Sys2Proof.Machine
end

section
/-! PROOF. The sensor session: the host's conversion of a humidity as a value cut to the signed 32-bit range,
the block's test on it, and the end of an operation without error. -/

namespace Sys2Proof.Machine
open Sys2Proof

/-- R124: the conversion rounds down, so it is negative exactly when the humidity is. -/
theorem humFix_neg_iff (v : ℚ) : humFix v < 0 ↔ v < 0 := by
  rw [humFix, Int.floor_lt, Int.cast_zero]
  constructor <;> intro h <;> linarith

/-- R124: the conversion passes the largest word exactly when the humidity is 256 or more. -/
theorem word_max_lt_humFix_iff (v : ℚ) : 0xFFFF < humFix v ↔ 256 ≤ v := by
  rw [← Int.add_one_le_iff, humFix, Int.le_floor]
  norm_num
  constructor <;> intro h <;> linarith

/-- R123: the block's test on HUM, as a proposition. -/
theorem humidityOutOfRange_iff (hum : BitVec 32) :
    humidityOutOfRange hum = true ↔ hum.toInt < 0 ∨ 0xFFFF < hum.toInt := by
  simp [humidityOutOfRange]

/-- R124: HUM holds the conversion, cut to the nearest end of the signed 32-bit range. -/
theorem toInt_humReg (v : ℚ) : (humReg v).toInt = max (-0x80000000) (min 0x7FFFFFFF (humFix v)) := by
  unfold humReg
  split_ifs with below above
  · rw [show (0x80000000 : BitVec 32).toInt = -0x80000000 by decide]
    omega
  · rw [show (0x7FFFFFFF : BitVec 32).toInt = 0x7FFFFFFF by decide]
    omega
  · rw [BitVec.toInt_ofInt_eq_self (by decide) (by omega) (by omega)]
    omega

/-- R123: a HUM that the block accepts is sent whole, since its value fits the low half. -/
theorem toNat_setWidth_of_accepted {hum : BitVec 32} (low : 0 ≤ hum.toInt) (high : hum.toInt ≤ 0xFFFF) :
    (hum.setWidth 16 : Word).toNat = hum.toInt.toNat := by
  have nonneg : hum.msb = false := by simpa [BitVec.msb_eq_toInt] using low
  have value : hum.toInt = hum.toNat := BitVec.toInt_eq_toNat_of_msb nonneg
  rw [BitVec.toNat_setWidth]
  omega

/-- Settles O31: HUM holds the cut conversion, and the cut moves no value across either bound of the block's test. -/
theorem humidityConversion : Obligations.HumidityConversion := by
  intro v
  have reg := toInt_humReg v
  have negative := humFix_neg_iff v
  have large := word_max_lt_humFix_iff v
  have refused : humidityOutOfRange (humReg v) = true ↔ v < 0 ∨ 256 ≤ v := by
    rw [humidityOutOfRange_iff, ← negative, ← large]
    omega
  have sent (low : 0 ≤ v) (high : v < 256) : ((humReg v).setWidth 16 : Word).toNat = (humFix v).toNat := by
    rw [← not_lt, ← negative] at low
    rw [← not_le, ← large] at high
    rw [toNat_setWidth_of_accepted (by omega) (by omega)]
    omega
  rw [← humFix]
  exact ⟨rfl, by omega, by omega, by omega, negative, large, refused, sent⟩

/-- Settles O33: the flags at an end, then RESCNT and PHASE. -/
theorem endWithoutError : Obligations.EndWithoutError := by
  intro k s
  rw [finish, flagsOnEnd]

end Sys2Proof.Machine
end

section
/-! PROOF. Error entry: what every kind of error writes, around the payload that its kind alone writes. -/

namespace Sys2Proof.Machine
open Sys2Proof

/-- R134: beside the payload of its kind, an error writes its code, RESCNT, BUSY, DONE and PHASE, and no other field. -/
theorem raise_eq_writePayload (e : HwError) (s : State) :
    raise e s =
      { writePayload e s with err := errCode e, rescnt := 0, busy := false, done := true, phase := .idle } := by
  rw [raise, flagsOnEnd]

/-- Settles O32: for each kind of error, the fields written at every error entry around that kind's payload. -/
theorem errorEntry : Obligations.ErrorEntry := by
  intro s
  refine ⟨fun data crc => ?checksum, fun value => ?domain, ?ioWrite, ?ioRead, fun code => ?illegalOp⟩
  case checksum => rw [raise_eq_writePayload, writePayload, errCode]
  case domain => rw [raise_eq_writePayload, writePayload, errCode]
  case ioWrite => rw [raise_eq_writePayload, writePayload, errCode, directionCode]
  case ioRead => rw [raise_eq_writePayload, writePayload, errCode, directionCode]
  case illegalOp => rw [raise_eq_writePayload, writePayload, errCode, BitVec.ofNat_toNat]

end Sys2Proof.Machine
end

section
/-! PROOF. The encodings of the instructions: DECODE of the bytes of a select code, of the bytes of a wire command, and
the bytes of whatever decodes. -/

namespace Sys2Proof
open Machine

/-- R57, R60: bytes that begin with the opcode of a row are that command with the bytes after the opcode. -/
theorem decode_opcodeBytes_append (cmd : WireCmd) (params : List Byte) :
    decode (opcodeBytes (cmdRow cmd).opcode ++ params) = decodeCommand cmd params := by
  simp only [opcodeBytes, List.cons_append, List.nil_append, decode, wordOf_hiByte_loByte, cmdOfOpcode_opcode]

/-- R65: the byte of a host operation is its select code. -/
theorem encode_of_selectCode {i : Instr} {code : BitVec 4} (h : selectCode i = some code) :
    encode i = [code.setWidth 8] := by
  cases i <;> cases h <;> rfl

/-- R65: the select code of a host operation selects it. -/
theorem decodeSelect_of_selectCode {i : Instr} {code : BitVec 4} (h : selectCode i = some code) :
    decodeSelect code = .ok i := by
  cases i <;> cases h <;> rfl

theorem decode_encode_of_selectCode {i : Instr} {code : BitVec 4} (h : selectCode i = some code) :
    decode (encode i) = .ok i := by
  rw [encode_of_selectCode h, decode_setWidth_select, decodeSelect_of_selectCode h]

/-- R8, R57: a command whose checksum bytes are right decodes to itself: its opcode finds its row, and every block of
its parameters verifies. -/
theorem decode_encode_cmdSetBaseline {p q : Word} {c d : Byte} (h : (Instr.cmdSetBaseline p c q d).wellFormed = true) :
    decode (encode (.cmdSetBaseline p c q d)) = .ok (.cmdSetBaseline p c q d) := by
  obtain ⟨rfl, rfl⟩ : wordChecksum p = c ∧ wordChecksum q = d := by simpa [Instr.wellFormed] using h
  refine (decode_opcodeBytes_append .setBaseline _).trans ?_
  simp [decodeCommand]

theorem decode_encode_cmdSetHumidity {p : Word} {c : Byte} (h : (Instr.cmdSetHumidity p c).wellFormed = true) :
    decode (encode (.cmdSetHumidity p c)) = .ok (.cmdSetHumidity p c) := by
  obtain rfl : wordChecksum p = c := by simpa [Instr.wellFormed] using h
  refine (decode_opcodeBytes_append .setHumidity _).trans ?_
  simp [decodeCommand]

/-- Settles O8: a host operation decodes by its select code, a wire command by its row and its parameter blocks. -/
theorem decodeOfEncode : Obligations.DecodeOfEncode := by
  intro i wf
  cases i with
  | cmdSetBaseline p c q d => exact decode_encode_cmdSetBaseline wf
  | cmdSetHumidity p c => exact decode_encode_cmdSetHumidity wf
  | cmdSerialId => exact decode_opcodeBytes_append .serialId []
  | cmdFeatureSet => exact decode_opcodeBytes_append .featureSet []
  | cmdInit => exact decode_opcodeBytes_append .init []
  | cmdGetBaseline => exact decode_opcodeBytes_append .getBaseline []
  | cmdMeasure => exact decode_opcodeBytes_append .measure []
  | cmdRawSignals => exact decode_opcodeBytes_append .rawSignals []
  | initialise | initialiseBl | getSerialId | getFeatureSet | measure | getBaseline | setBaseline | getRawSignals
  | setHumidity => exact decode_encode_of_selectCode rfl

theorem wellFormed_of_isHostOp {i : Instr} (h : i.isHostOp = true) : i.wellFormed = true := by
  cases i <;> first | rfl | cases h

/-- R15: a byte that is a select code is known from its low four bits. -/
theorem setWidth_setWidth_of_lt_16 {b : Byte} (h : b.toNat < 16) : (b.setWidth 4).setWidth 8 = b := by
  apply BitVec.eq_of_toNat_eq
  simp only [BitVec.toNat_setWidth]
  omega

/-- R8, R57, R60: what a command with its parameter bytes decodes to is a wire command, is well formed and has these
parameter bytes. -/
theorem decodeCommand_ok {cmd : WireCmd} {params : List Byte} {i : Instr} (h : decodeCommand cmd params = .ok i) :
    i.isHostOp = false ∧ i.wellFormed = true ∧ encode i = opcodeBytes (cmdRow cmd).opcode ++ params := by
  unfold decodeCommand at h
  split at h
  case h_7 p1 p0 c q1 q0 d =>
    split at h
    case isTrue good =>
      cases h
      obtain ⟨hp, hq⟩ := Bool.and_eq_true_iff.1 good
      rw [verify_iff] at hp hq
      simp [Instr.isHostOp, Instr.wellFormed, encode, wordChecksum, hp, hq, cmdRow]
    case isFalse => cases h
  case h_8 p1 p0 c =>
    split at h
    case isTrue good =>
      cases h
      simp [Instr.isHostOp, Instr.wellFormed, encode, wordChecksum, (verify_iff _ _ _).1 good, cmdRow]
    case isFalse => cases h
  case h_9 => cases h
  all_goals
    cases h
    exact ⟨rfl, rfl, rfl⟩

/-- R57, R60, R61: two bytes and more decode by the row their first two bytes name. -/
theorem decode_command_ok {o1 o0 : Byte} {params : List Byte} {i : Instr} (h : decode (o1 :: o0 :: params) = .ok i) :
    ∃ cmd, (cmdRow cmd).opcode = wordOf o1 o0 ∧ decodeCommand cmd params = .ok i := by
  rw [decode] at h
  split at h
  · exact ⟨_, opcode_of_cmdOfOpcode ‹_›, h⟩
  · cases h

/-- Settles O9: one byte is a select code, which is the encoding; more are an opcode of a row with its parameters. -/
theorem decodedBytesAreTheEncoding : Obligations.DecodedBytesAreTheEncoding := by
  intro bytes i h
  match bytes with
  | [] => cases h
  | [b] =>
    rw [decode] at h
    split at h
    · obtain ⟨code, host, -⟩ := decodeSelect_ok h
      exact ⟨wellFormed_of_isHostOp host,
        by rw [encode_of_selectCode code, setWidth_setWidth_of_lt_16 ‹_›]⟩
    · cases h
  | o1 :: o0 :: params =>
    obtain ⟨cmd, opcode, decoded⟩ := decode_command_ok h
    obtain ⟨-, wf, bytes⟩ := decodeCommand_ok decoded
    exact ⟨wf, by rw [bytes, opcode, opcodeBytes, hiByte_wordOf, loByte_wordOf]; rfl⟩

/-- Settles O10: the words of R57, R59 and R65 written out, each evaluated. -/
theorem writtenWordsDecode : Obligations.WrittenWordsDecode := by
  unfold Obligations.WrittenWordsDecode
  decide +kernel

end Sys2Proof
end

section
/-! PROOF. What the block leaves to the host: the registers and flags that no shared operation of the sequencer writes,
said once for each operation and then for a phase step. -/

namespace Sys2Proof.Machine
open Sys2Proof

/-- R25, R65, R66: what an accepted `start` begins, by its shape: with the operands loaded, the first command of the
operation, or the error that ends it at once. -/
theorem beginSelected_shape (s : State) : ∃ code u,
    (u = accept code s ∨ u = loadBaseline (accept code s) ∨ u = loadHumidity (accept code s)) ∧
    ((∃ cmd, issues code cmd = true ∧ beginSelected s = loadCommand cmd u) ∨ ∃ e, beginSelected s = raise e u) := by
  rcases beginSelected_cases s with ⟨-, h⟩ | ⟨-, h⟩ | ⟨-, h⟩ | ⟨-, h⟩ | ⟨-, h⟩ | ⟨-, h⟩ | ⟨-, h⟩ | ⟨-, h⟩ | ⟨-, h⟩ |
    ⟨-, h⟩ <;> rw [h]
  · exact ⟨0, _, .inl rfl, .inl ⟨.init, rfl, rfl⟩⟩
  · exact ⟨1, _, .inr (.inl rfl), .inl ⟨.init, rfl, rfl⟩⟩
  · exact ⟨2, _, .inl rfl, .inl ⟨.serialId, rfl, rfl⟩⟩
  · exact ⟨3, _, .inl rfl, .inl ⟨.featureSet, rfl, rfl⟩⟩
  · exact ⟨4, _, .inl rfl, .inl ⟨.measure, rfl, rfl⟩⟩
  · exact ⟨5, _, .inl rfl, .inl ⟨.getBaseline, rfl, rfl⟩⟩
  · exact ⟨6, _, .inr (.inl rfl), .inl ⟨.setBaseline, rfl, rfl⟩⟩
  · exact ⟨7, _, .inl rfl, .inl ⟨.rawSignals, rfl, rfl⟩⟩
  · unfold beginSetHumidity
    split
    · exact ⟨8, _, .inl rfl, .inr ⟨_, rfl⟩⟩
    · exact ⟨8, _, .inr (.inr rfl), .inl ⟨.setHumidity, rfl, rfl⟩⟩
  · exact ⟨_, _, .inl rfl, .inr ⟨_, rfl⟩⟩

/-- From `s` to `t` the block took no event, left the host's operand registers alone (R15, R16, R17) and cleared neither
sticky flag (R20, R22). -/
structure BlockKeeps (s t : State) : Prop where
  inputs : t.inputs = s.inputs
  opsel : t.opsel = s.opsel
  arg0 : t.arg0 = s.arg0
  arg1 : t.arg1 = s.arg1
  hum : t.hum = s.hum
  ovr : s.ovr = true → t.ovr = true
  lastv : s.lastv = true → t.lastv = true

namespace BlockKeeps

theorem refl (s : State) : BlockKeeps s s := ⟨rfl, rfl, rfl, rfl, rfl, id, id⟩

theorem trans {s t u : State} (h : BlockKeeps s t) (k : BlockKeeps t u) : BlockKeeps s u where
  inputs := k.inputs.trans h.inputs
  opsel := k.opsel.trans h.opsel
  arg0 := k.arg0.trans h.arg0
  arg1 := k.arg1.trans h.arg1
  hum := k.hum.trans h.hum
  ovr := k.ovr ∘ h.ovr
  lastv := k.lastv ∘ h.lastv

theorem overrun (s : State) : BlockKeeps s (overrun s) := ⟨rfl, rfl, rfl, rfl, rfl, fun _ => rfl, id⟩
theorem accept (code : BitVec 4) (s : State) : BlockKeeps s (accept code s) := ⟨rfl, rfl, rfl, rfl, rfl, id, id⟩
theorem finish (k : BitVec 2) (s : State) : BlockKeeps s (finish k s) := ⟨rfl, rfl, rfl, rfl, rfl, id, id⟩
theorem loadBaseline (s : State) : BlockKeeps s (loadBaseline s) := ⟨rfl, rfl, rfl, rfl, rfl, id, id⟩
theorem loadHumidity (s : State) : BlockKeeps s (loadHumidity s) := ⟨rfl, rfl, rfl, rfl, rfl, id, id⟩
theorem buildPhase (s : State) : BlockKeeps s (buildPhase s) := ⟨rfl, rfl, rfl, rfl, rfl, id, id⟩
theorem record (e : BusEvent) (s : State) : BlockKeeps s (record e s) := ⟨rfl, rfl, rfl, rfl, rfl, id, id⟩
theorem receive (bytes : List Byte) (s : State) : BlockKeeps s (receive bytes s) := ⟨rfl, rfl, rfl, rfl, rfl, id, id⟩

theorem loadCommand (cmd : WireCmd) (s : State) : BlockKeeps s (loadCommand cmd s) :=
  ⟨rfl, rfl, rfl, rfl, rfl, id, id⟩

theorem storeResults (ws : List Word) (s : State) : BlockKeeps s (storeResults ws s) :=
  ⟨rfl, rfl, rfl, rfl, rfl, id, id⟩

theorem takeMeasurement (ws : List Word) (s : State) : BlockKeeps s (takeMeasurement ws s) :=
  ⟨rfl, rfl, rfl, rfl, rfl, id, fun _ => rfl⟩

theorem afterCheck (frame : List Byte) (s : State) : BlockKeeps s (afterCheck frame s) :=
  ⟨rfl, rfl, rfl, rfl, rfl, id, id⟩

theorem beginWait (p : Phase) (ms : Nat) (s : State) : BlockKeeps s (beginWait p ms s) :=
  ⟨rfl, rfl, rfl, rfl, rfl, id, id⟩

theorem raise (e : HwError) (s : State) : BlockKeeps s (raise e s) := by
  cases e <;> exact ⟨rfl, rfl, rfl, rfl, rfl, id, id⟩

theorem beginSettle (s : State) : BlockKeeps s (beginSettle s) := by
  unfold Machine.beginSettle
  split <;> exact ⟨rfl, rfl, rfl, rfl, rfl, id, id⟩

theorem beginSelected (s : State) : BlockKeeps s (beginSelected s) := by
  obtain ⟨code, u, loaded, begun⟩ := beginSelected_shape s
  have keeps : BlockKeeps s u := by
    rcases loaded with rfl | rfl | rfl
    · exact accept code s
    · exact (accept code s).trans (loadBaseline _)
    · exact (accept code s).trans (loadHumidity _)
  rcases begun with ⟨cmd, -, h⟩ | ⟨e, h⟩ <;> rw [h]
  · exact keeps.trans (loadCommand cmd u)
  · exact keeps.trans (raise e u)

theorem waitOver (s : State) : BlockKeeps s (waitOver s) := by
  unfold Machine.waitOver
  split <;> exact ⟨rfl, rfl, rfl, rfl, rfl, id, id⟩

theorem clockCycles (n : Nat) (s : State) : BlockKeeps s (clockCycles n s) := by
  rcases clockCycles_cases n s with h | h | ⟨-, h⟩ <;> rw [h]
  · exact refl s
  · exact waitOver s
  · exact ⟨rfl, rfl, rfl, rfl, rfl, id, id⟩

theorem returnInitialise (ws : List Word) (s : State) : BlockKeeps s (returnInitialise ws s) := by
  rcases returnInitialise_cases ws s with ⟨-, h⟩ | ⟨-, -, h⟩ | ⟨-, -, -, h⟩ <;> rw [h]
  · exact ⟨rfl, rfl, rfl, rfl, rfl, id, id⟩
  · exact (takeMeasurement ws s).trans ⟨rfl, rfl, rfl, rfl, rfl, id, id⟩
  · exact (takeMeasurement ws s).trans ⟨rfl, rfl, rfl, rfl, rfl, id, id⟩

theorem returnInitialiseBl (ws : List Word) (s : State) : BlockKeeps s (returnInitialiseBl ws s) := by
  unfold Machine.returnInitialiseBl
  split
  · exact loadCommand _ s
  · exact finish 0 s

theorem of_returnWords {ws : List Word} {s t : State} (h : returnWords ws s = .next t) : BlockKeeps s t := by
  rcases returnWords_next h with ⟨-, rfl⟩ | ⟨-, rfl⟩ | ⟨-, rfl⟩ | ⟨-, rfl⟩ | ⟨-, rfl⟩ | ⟨-, rfl⟩ | ⟨-, rfl⟩ | ⟨-, rfl⟩ |
    ⟨-, rfl⟩
  · exact returnInitialise ws s
  · exact returnInitialiseBl ws s
  · exact (storeResults ws s).trans (finish 3 _)
  · exact (storeResults ws s).trans (finish 1 _)
  · exact (takeMeasurement ws s).trans (finish 2 _)
  · exact (storeResults ws s).trans (finish 2 _)
  · exact finish 0 s
  · exact (storeResults ws s).trans (finish 2 _)
  · exact finish 0 s

theorem of_writeDone {r : BusResponse} {s t : State} (h : writeDone r s = .next t) : BlockKeeps s t := by
  rcases writeDone_next h with ⟨-, rfl⟩ | ⟨_, -, -, returned⟩ | ⟨_, -, -, rfl⟩
  · exact (record _ s).trans (raise _ _)
  · exact (record _ s).trans (of_returnWords returned)
  · exact (record _ s).trans (beginSettle _)

theorem of_readDone {r : BusResponse} {s t : State} (h : readDone r s = .next t) : BlockKeeps s t := by
  rcases readDone_next h with ⟨-, rfl⟩ | ⟨_, -, -, rfl⟩
  · exact (record _ s).trans (raise _ _)
  · exact (record _ s).trans (receive _ _)

theorem of_decodePhase {s t : State} (h : decodePhase s = .next t) : BlockKeeps s t := by
  rcases decodePhase_next h with ⟨_, -, returned⟩ | ⟨_, _, -, rfl⟩
  · exact (afterCheck _ s).trans (of_returnWords returned)
  · exact (afterCheck _ s).trans (raise _ _)

/-- An event of the transport, of time or a `start` leaves the host's registers alone. -/
theorem of_onInput {e : Input} {s t : State} (noWrite : ∀ n v, e ≠ .hostWrite n v) (noReset : ∀ c, e ≠ .rst c)
    (h : onInput e s = .next t) : BlockKeeps s t := by
  cases e with
  | hostWrite n v => exact absurd rfl (noWrite n v)
  | rst c => exact absurd rfl (noReset c)
  | start =>
    injection h with h
    subst h
    split
    · exact overrun s
    · exact beginSelected s
  | bus r =>
    rcases busAnswer_next h with ⟨-, h⟩ | ⟨-, h⟩
    · exact of_writeDone h
    · exact of_readDone h
  | clk n => cases h; exact clockCycles n s
  | waitEnd => cases h; exact waitOver s

end BlockKeeps

/-- R14, R145: no event, not even a host write or a reset, touches the events after it. -/
theorem onInput_inputs {e : Input} {s t : State} (h : onInput e s = .next t) : t.inputs = s.inputs := by
  cases e with
  | hostWrite n v =>
    obtain ⟨_, _, _, _, written⟩ := hostWriteReg_cases n v s
    cases h
    rw [written]
  | rst c => rcases resetBy_next h with rfl | ⟨_, _, _, -, -, -, rfl⟩ <;> rfl
  | start | bus | clk | waitEnd => exact (BlockKeeps.of_onInput (by simp) (by simp) h).inputs

end Sys2Proof.Machine
end

section
/-! PROOF. Runs of phase steps: the work that is left and falls with every step, and a run as a chain of phase steps
that ends where `stop` holds or no event is left. With it the bound on phase steps (log 20) is out of every later
proof. -/

namespace Sys2Proof.Machine
open Sys2Proof

/-! ### The work left -/

theorem waits_iff (p : Phase) : p.waits = true ↔ p ≠ .build ∧ p ≠ .decode := by
  cases p <;> decide

/-- Log 20: the phase steps that a phase makes before the next one that waits. -/
def Phase.work : Phase → Nat
  | .decode => 2
  | .build => 1
  | .idle | .write | .settle | .read | .pollwait => 0

theorem Phase.work_le (p : Phase) : p.work ≤ 2 := by
  cases p <;> decide

/-- Log 20: a bound on the phase steps until the block rests. -/
def work (s : State) : Nat := 3 * s.inputs.length + s.phase.work

theorem work_le_enough (s : State) : work s ≤ enough s := by
  have := s.phase.work_le
  unfold work enough
  omega

/-- R104: after an EXECUTE the operation has ended, waits before a poll or begins the next EXECUTE. -/
theorem returnWords_phase {ws : List Word} {s t : State} (h : returnWords ws s = .next t) :
    t.phase = .idle ∨ t.phase = .pollwait ∨ t.phase = .build := by
  rcases returnWords_next h with ⟨-, rfl⟩ | ⟨-, rfl⟩ | ⟨-, rfl⟩ | ⟨-, rfl⟩ | ⟨-, rfl⟩ | ⟨-, rfl⟩ | ⟨-, rfl⟩ | ⟨-, rfl⟩ |
    ⟨-, rfl⟩
  · rcases returnInitialise_cases ws s with ⟨-, h⟩ | ⟨-, -, h⟩ | ⟨-, -, -, h⟩ <;> simp [h]
  · unfold returnInitialiseBl
    split <;> simp
  all_goals exact .inl rfl

theorem decodePhase_phase {s t : State} (h : decodePhase s = .next t) :
    t.phase = .idle ∨ t.phase = .pollwait ∨ t.phase = .build := by
  rcases decodePhase_next h with ⟨_, -, returned⟩ | ⟨_, _, -, rfl⟩
  · exact returnWords_phase returned
  · exact .inl rfl

/-- Log 20: a phase step leaves less work, unless the block waits and no event comes. -/
theorem tick_work {s t : State} (h : tick s = .next t) : t = s ∨ work t < work s := by
  rcases tick_next h with ⟨hp, rfl⟩ | ⟨hp, decoded⟩ | ⟨-, -, rfl⟩ | ⟨-, e, rest, hi, taken⟩
  · exact .inr (by simp [work, hp, Phase.work])
  · right
    have next : t.phase.work ≤ 1 := by
      rcases decodePhase_phase decoded with h | h | h <;> simp [h, Phase.work]
    have before : s.phase.work = 2 := by rw [hp]; rfl
    simp only [work, (BlockKeeps.of_decodePhase decoded).inputs]
    omega
  · exact .inl rfl
  · right
    have := t.phase.work_le
    simp only [work, onInput_inputs taken, hi, List.length_cons]
    omega

/-! ### Runs as chains of phase steps -/

/-- A phase step that a run up to `stop` makes. -/
def RunStep (stop : State → Bool) (s t : State) : Prop := stop s = false ∧ tick s = .next t

/-- The run up to `stop` comes from `s` past `t`. -/
def Goes (stop : State → Bool) : State → State → Prop := Relation.ReflTransGen (RunStep stop)

/-- A run up to `stop` makes no further change. -/
def Halted (stop : State → Bool) (s : State) : Prop := stop s = true ∨ tick s = .next s

theorem Goes.step {stop : State → Bool} {s t : State} (h : stop s = false) (ht : tick s = .next t) : Goes stop s t :=
  .single ⟨h, ht⟩

theorem Goes.trans {stop : State → Bool} {s t u : State} (h : Goes stop s t) (k : Goes stop t u) : Goes stop s u :=
  Relation.ReflTransGen.trans h k

/-- The block is halted when it has no work left (R37, log 6). -/
theorem halted_of_work_eq_zero {stop : State → Bool} {s : State} (h : work s = 0) : Halted stop s := by
  have none : s.inputs = [] ∧ s.phase.work = 0 := by simpa [work] using h
  have waits : s.phase.waits = true := by
    cases hp : s.phase <;> simp [hp, Phase.work] at none <;> rfl
  exact .inr (tick_no_event waits none.1)

theorem run_of_halted {stop : State → Bool} {s : State} (n : Nat) (h : Halted stop s) : run stop n s = .next s := by
  induction n with
  | zero => rfl
  | succ n ih =>
    cases hstop : stop s with
    | true => exact run_stop _ hstop
    | false => rw [run_step n hstop (h.resolve_left (by simp [hstop])), ih]

/-- Log 20: with steps enough for the work left, the run answers the state in which the chain of phase steps halts. -/
theorem run_of_goes {stop : State → Bool} {s t : State} {n : Nat} (h : Goes stop s t) (halted : Halted stop t)
    (hn : work s ≤ n) : run stop n s = .next t := by
  induction h using Relation.ReflTransGen.head_induction_on generalizing n with
  | refl => exact run_of_halted n halted
  | @head s u hstep _ ih =>
    rcases tick_work hstep.2 with rfl | less
    · exact ih hn
    · obtain ⟨m, rfl⟩ : ∃ m, n = m + 1 := ⟨n - 1, by omega⟩
      rw [run_step m hstep.1 hstep.2]
      exact ih (by omega)

/-- Log 20: with steps enough for the work left, a run that answers a next state answers one in which it halts. -/
theorem goes_of_run {stop : State → Bool} {s t : State} {n : Nat} (hn : work s ≤ n) (h : run stop n s = .next t) :
    Goes stop s t ∧ Halted stop t := by
  induction n generalizing s with
  | zero =>
    cases h
    exact ⟨.refl, halted_of_work_eq_zero (by omega)⟩
  | succ n ih =>
    cases hstop : stop s with
    | true =>
      rw [run_stop _ hstop] at h
      cases h
      exact ⟨.refl, .inl hstop⟩
    | false =>
      cases ht : tick s with
      | fault r => simp [run, hstop, ht] at h
      | refused r => simp [run, hstop, ht] at h
      | next u =>
        rcases tick_work ht with rfl | less
        · rw [run_of_halted _ (.inr ht)] at h
          cases h
          exact ⟨.refl, .inr ht⟩
        · rw [run_step n hstop ht] at h
          obtain ⟨goes, halted⟩ := ih (by omega) h
          exact ⟨.head ⟨hstop, ht⟩ goes, halted⟩

theorem runOperation_of_goes {s t : State} (h : Goes operationOver s t) (idle : t.phase = .idle) :
    runOperation s = .next t :=
  run_of_goes h (.inl (by simp [operationOver, idle])) (work_le_enough s)

theorem runExecute_of_goes {s t : State} (h : Goes executeOver (buildPhase s) t) (stops : executeOver t = true) :
    runExecute s = .next t :=
  run_of_goes h (.inl stops) (by simp [work, enough, Phase.work])

/-! ### Steps of the machine -/

/-- R11, R25: beside a `start` on the idle block and phase BUILD, a step is one phase step. -/
theorem step_eq_tick {s : State} (hb : s.phase ≠ .build)
    (hi : s.phase = .idle → ∀ rest, s.inputs ≠ .start :: rest) : step s = tick s := by
  unfold step
  split
  · split
    · exact absurd ‹_› (hi ‹_› _)
    · rfl
  · exact absurd ‹_› hb
  all_goals rfl

/-- R37: a step in a phase that waits takes the next event, a `start` on the idle block apart. -/
theorem step_event {s : State} {e : Input} {rest : List Input} (hw : s.phase.waits = true)
    (hi : s.inputs = e :: rest) (he : s.phase = .idle → e ≠ .start) :
    step s = onInput e { s with inputs := rest } := by
  rw [step_eq_tick ((waits_iff _).1 hw).1 ?_, tick_event hw hi]
  intro hp rest' hs
  rw [hi] at hs
  cases hs
  exact he hp rfl

/-- R25: the phase step of a `start` that finds the block idle. -/
theorem tick_start {s : State} {rest : List Input} (hp : s.phase = .idle) (hb : s.busy = false)
    (hi : s.inputs = .start :: rest) : tick s = .next (beginSelected { s with inputs := rest }) := by
  rw [tick_event (by rw [hp]; rfl) hi]
  exact congrArg Host.Outcome.next (if_neg (by simp [hb]))

/-- R65: the instruction that OPSEL selects is the operation that accepting a `start` begins. -/
theorem exec_of_selected {s : State} {i : Instr} (h : decodeSelect s.opsel = .ok i) :
    exec i s = startOperation beginSelected s := by
  have host := (decodeSelect_ok h).2.1
  simp only [startOperation, beginSelected, h]
  cases i <;> first | rfl | cases host

/-- R66: a reserved code begins nothing. -/
theorem beginSelected_reserved {s : State} (h : 9 ≤ s.opsel.toNat) : beginSelected s = beginReserved s.opsel s := by
  simp only [beginSelected, (decodeSelect_error_iff _).2 h]

/-- R65, R66: OPSEL selects an operation or holds a reserved code. -/
theorem decodeSelect_cases (code : BitVec 4) : (∃ i, decodeSelect code = .ok i) ∨ 9 ≤ code.toNat := by
  have all : ∀ c : BitVec 4, (decodeSelect c).toOption.isSome = true ∨ 9 ≤ c.toNat := by decide
  refine (all code).imp_left fun h => ?_
  cases hc : decodeSelect code with
  | ok i => exact ⟨i, rfl⟩
  | error e => simp [hc, Except.toOption] at h

/-- R25, R65, R66: the step of a `start` on the idle block runs what its acceptance begins, to its end. -/
theorem step_start_idle {s : State} {rest : List Input} (hp : s.phase = .idle) (hb : s.busy = false)
    (hi : s.inputs = .start :: rest) : step s = runOperation (beginSelected { s with inputs := rest }) := by
  rw [step_start hp hi]
  rcases decodeSelect_cases s.opsel with ⟨i, selected⟩ | reserved
  · have decoded : decode (fetchSelect { s with inputs := rest }) = .ok i :=
      (decode_setWidth_select s.opsel).trans selected
    simp only [stepStart, decoded]
    rw [exec_of_selected (s := { s with inputs := rest }) selected]
    exact if_neg (by simp [hb])
  · rw [stepStart_reserved (by exact reserved), beginSelected_reserved (by exact reserved)]
    exact (run_stop _ rfl).symm

/-- R25, R26, R66: at a `start` with BUSY = 1 in IDLE, which no run reaches, OVR is set or a reserved code ends. -/
theorem step_start_busy {s : State} {rest : List Input} (hp : s.phase = .idle) (hb : s.busy = true)
    (hi : s.inputs = .start :: rest) :
    step s = tick s ∨ step s = .next (beginReserved s.opsel { s with inputs := rest }) := by
  rw [step_start hp hi]
  rcases decodeSelect_cases s.opsel with ⟨i, selected⟩ | reserved
  · left
    have decoded : decode (fetchSelect { s with inputs := rest }) = .ok i :=
      (decode_setWidth_select s.opsel).trans selected
    simp only [stepStart, decoded]
    rw [exec_of_selected (s := { s with inputs := rest }) selected, tick_event (by rw [hp]; rfl) hi]
    simp [startOperation, onInput, hb]
  · exact .inr (stepStart_reserved (by exact reserved))

/-- R57: the instruction of a row with given parameter words. -/
def wireInstr (cmd : WireCmd) (p q : Word) : Instr :=
  match cmd with
  | .serialId => .cmdSerialId
  | .featureSet => .cmdFeatureSet
  | .init => .cmdInit
  | .getBaseline => .cmdGetBaseline
  | .setBaseline => .cmdSetBaseline p (wordChecksum p) q (wordChecksum q)
  | .measure => .cmdMeasure
  | .rawSignals => .cmdRawSignals
  | .setHumidity => .cmdSetHumidity p (wordChecksum p)

/-- R57, R103: a well-formed wire command is the instruction of a row with its parameter words, and means the EXECUTE
of that row with them. -/
theorem exec_wire {i : Instr} (wire : i.isHostOp = false) (wf : i.wellFormed = true) (s : State) :
    ∃ cmd p q, i = wireInstr cmd p q ∧ exec i s = runExecute (loadCommand cmd { s with p0 := p, p1 := q }) := by
  cases i with
  | cmdSerialId => exact ⟨.serialId, s.p0, s.p1, rfl, rfl⟩
  | cmdFeatureSet => exact ⟨.featureSet, s.p0, s.p1, rfl, rfl⟩
  | cmdInit => exact ⟨.init, s.p0, s.p1, rfl, rfl⟩
  | cmdGetBaseline => exact ⟨.getBaseline, s.p0, s.p1, rfl, rfl⟩
  | cmdSetBaseline p c q d =>
    obtain ⟨rfl, rfl⟩ : wordChecksum p = c ∧ wordChecksum q = d := by simpa [Instr.wellFormed] using wf
    exact ⟨.setBaseline, p, q, rfl, rfl⟩
  | cmdMeasure => exact ⟨.measure, s.p0, s.p1, rfl, rfl⟩
  | cmdRawSignals => exact ⟨.rawSignals, s.p0, s.p1, rfl, rfl⟩
  | cmdSetHumidity p c =>
    obtain rfl : wordChecksum p = c := by simpa [Instr.wellFormed] using wf
    exact ⟨.setHumidity, p, s.p1, rfl, rfl⟩
  | initialise | initialiseBl | getSerialId | getFeatureSet | measure | getBaseline | setBaseline | getRawSignals
  | setHumidity => cases wire

/-- R104: what a step in BUILD can be: an EXECUTE, or no command of the table. -/
theorem step_build {s : State} (hp : s.phase = .build) :
    step s = .refused .notACommand ∨
    ∃ cmd p q, step s = runExecute (loadCommand cmd { s with p0 := p, p1 := q }) := by
  have unfolded : step s = stepBuild s := by simp only [step, hp]
  rw [unfolded, stepBuild]
  cases decoded : decode (fetchCommand s) with
  | error e => exact .inl rfl
  | ok i =>
    right
    obtain ⟨cmd, -, params⟩ := decode_command_ok decoded
    obtain ⟨wire, wf, -⟩ := decodeCommand_ok params
    obtain ⟨cmd, p, q, -, meaning⟩ := exec_wire wire wf s
    exact ⟨cmd, p, q, meaning⟩

/-- R11, R24: a property that the phase steps keep, and with them the two things a step does beside them (it loads the
working registers in BUILD, and refuses a reserved code), is kept by every step. -/
theorem step_keeps {P : State → Prop} (hTick : ∀ s t, P s → tick s = .next t → P t)
    (hReserved : ∀ s rest, s.inputs = .start :: rest → P s → P (beginReserved s.opsel { s with inputs := rest }))
    (hLoad : ∀ s cmd p q, P s → P (loadCommand cmd { s with p0 := p, p1 := q })) {s t : State} (hs : P s)
    (h : step s = .next t) : P t := by
  by_cases hb : s.phase = .build
  · rcases step_build hb with refused | ⟨cmd, p, q, executes⟩
    · rw [refused] at h; cases h
    · rw [executes] at h
      exact run_keeps hTick (hTick _ _ (hLoad s cmd p q hs) (tick_build rfl)) h
  · by_cases hi : s.phase = .idle ∧ ∃ rest, s.inputs = .start :: rest
    · obtain ⟨hp, rest, hi⟩ := hi
      cases hbusy : s.busy with
      | true =>
        rcases step_start_busy hp hbusy hi with ticks | reserved
        · exact hTick s t hs (ticks ▸ h)
        · rw [reserved] at h
          cases h
          exact hReserved s rest hi hs
      | false =>
        rw [step_start_idle hp hbusy hi] at h
        exact run_keeps hTick (hTick s _ hs (tick_start hp hbusy hi)) h
    · rw [step_eq_tick hb fun hp rest hs => hi ⟨hp, rest, hs⟩] at h
      exact hTick s t hs h

end Sys2Proof.Machine
end

section
/-! PROOF. What one step does: the instruction it runs, the host's events, broken contracts, resets and time. -/

namespace Sys2Proof.Machine
open Sys2Proof

/-! ### The instruction that a step runs -/

/-- Settles O15: the byte of OPSEL is what the step at a start decodes. -/
theorem stepRunsSelectedOperation : Obligations.StepRunsSelectedOperation := by
  intro s rest i hp hi decoded
  have fetched : decode (fetchSelect { s with inputs := rest }) = .ok i := decoded
  rw [step_start hp hi, stepStart, fetched]

/-- Settles O16: the bytes of OPC and P are what the step in BUILD decodes. -/
theorem stepRunsWireCommand : Obligations.StepRunsWireCommand := by
  intro s i hp decoded
  have fetched : decode (fetchCommand s) = .ok i := decoded
  simp only [step, hp, stepBuild, fetched]

/-- Settles O18: the phase step of the start accepts it, and the step goes on from there. -/
theorem operationIsItsPhaseSteps : Obligations.OperationIsItsPhaseSteps := by
  intro s u rest hp hb hi hu
  rw [tick_start hp hb hi] at hu
  cases hu
  exact step_start_idle hp hb hi

/-- R65: what the nine host operations begin with, in the order of their select codes. -/
def hostBegins : List (State → State) :=
  [beginInitialise, beginInitialiseBl, beginGetSerialId, beginGetFeatureSet, beginMeasure, beginGetBaseline,
    beginSetBaseline, beginGetRawSignals, beginSetHumidity]

/-- R25, R26: the meaning of a host operation begins it when BUSY = 0. -/
theorem exec_hostOp {i : Instr} (h : i.isHostOp = true) :
    ∃ begin ∈ hostBegins, ∀ s, exec i s = startOperation begin s := by
  cases i with
  | initialise => exact ⟨beginInitialise, by simp [hostBegins], fun _ => rfl⟩
  | initialiseBl => exact ⟨beginInitialiseBl, by simp [hostBegins], fun _ => rfl⟩
  | getSerialId => exact ⟨beginGetSerialId, by simp [hostBegins], fun _ => rfl⟩
  | getFeatureSet => exact ⟨beginGetFeatureSet, by simp [hostBegins], fun _ => rfl⟩
  | measure => exact ⟨beginMeasure, by simp [hostBegins], fun _ => rfl⟩
  | getBaseline => exact ⟨beginGetBaseline, by simp [hostBegins], fun _ => rfl⟩
  | setBaseline => exact ⟨beginSetBaseline, by simp [hostBegins], fun _ => rfl⟩
  | getRawSignals => exact ⟨beginGetRawSignals, by simp [hostBegins], fun _ => rfl⟩
  | setHumidity => exact ⟨beginSetHumidity, by simp [hostBegins], fun _ => rfl⟩
  | cmdSerialId | cmdFeatureSet | cmdInit | cmdGetBaseline | cmdSetBaseline | cmdMeasure | cmdRawSignals
  | cmdSetHumidity => cases h

theorem startOperation_of_not_busy {begin : State → State} {s : State} (h : s.busy = false) :
    startOperation begin s = runOperation (begin s) := if_neg (by simp [h])

/-- R37: a state that a phase step leaves as it is has no event to come and waits for one. -/
theorem inputs_of_tick_self {s : State} (h : tick s = .next s) :
    s.inputs = [] ∧ s.phase ≠ .build ∧ s.phase ≠ .decode := by
  rcases tick_next h with ⟨hp, hs⟩ | ⟨hp, decoded⟩ | ⟨waits, none, -⟩ | ⟨-, e, rest, hi, taken⟩
  · have := congrArg State.phase hs
    simp [hp] at this
  · have := decodePhase_phase decoded
    simp [hp] at this
  · exact ⟨none, (waits_iff _).1 waits⟩
  · have := onInput_inputs taken
    simp [hi] at this

theorem atRest_of_halted {s : State} (h : Halted operationOver s) : atRest s :=
  h.imp (by simp [operationOver]) inputs_of_tick_self

theorem halted_of_atRest {s : State} (h : atRest s) : Halted operationOver s :=
  h.imp (by simp [operationOver]) fun ⟨hi, hb, hd⟩ => tick_no_event ((waits_iff _).2 ⟨hb, hd⟩) hi

/-- Settles O19: the bound leaves a run steps enough to halt (log 20). -/
theorem operationRunsToRest : Obligations.OperationRunsToRest := by
  intro i s t host hb h
  obtain ⟨begin, -, meaning⟩ := exec_hostOp host
  rw [meaning, startOperation_of_not_busy hb] at h
  exact atRest_of_halted (goes_of_run (work_le_enough _) h).2

/-! ### Broken contracts -/

/-- Settles O21: the length test of READ, and the phases in which no request is outstanding. -/
theorem brokenContractsFault : Obligations.BrokenContractsFault := by
  constructor
  · intro s rbytes rest hp hi len
    rw [step_event (by rw [hp]; rfl) hi (by simp)]
    simp only [onInput, busAnswer, hp, readDone, if_neg len]
  · intro s r rest hi hp
    rcases hp with hp | hp | hp <;>
      rw [step_event (by rw [hp]; rfl) hi (by simp)] <;>
      simp only [onInput, busAnswer, hp]

/-! ### The host -/

/-- Settles O22: the pulse is taken as any event, and BUSY = 1 makes it an overrun. -/
theorem startWhileBusy : Obligations.StartWhileBusy := by
  constructor
  · intro s rest hb hi hbuild hdecode
    rw [tick_event ((waits_iff _).2 ⟨hbuild, hdecode⟩) hi]
    exact congrArg Host.Outcome.next (if_pos hb)
  · intro i s host hb
    obtain ⟨begin, -, meaning⟩ := exec_hostOp host
    rw [meaning, startOperation, if_pos hb, overrun]

/-- R14: a host write, field by field. -/
theorem hostWriteReg_eq (n : Nat) (v : BitVec 32) (s : State) :
    hostWriteReg n v s = { s with
      opsel := if n = 0 then v.setWidth 4 else s.opsel
      arg0 := if n = 1 then v.setWidth 16 else s.arg0
      arg1 := if n = 2 then v.setWidth 16 else s.arg1
      hum := if n = 3 then v else s.hum } := by
  match n with
  | 0 | 1 | 2 | 3 => rfl
  | n + 4 => simp [hostWriteReg]

theorem step_hostWrite {s : State} {n : Nat} {v : BitVec 32} {rest : List Input} (hw : s.phase.waits = true)
    (hi : s.inputs = .hostWrite n v :: rest) : step s = .next (hostWriteReg n v { s with inputs := rest }) :=
  step_event hw hi (by simp)

/-- R22: the bits of STATUS as a number. -/
theorem toNat_status (s : State) :
    (status s).toNat = s.busy.toNat + 2 * s.done.toNat + 4 * s.ovr.toNat + 8 * s.lastv.toNat := by
  unfold status
  cases s.busy <;> cases s.done <;> cases s.ovr <;> cases s.lastv <;> rfl

/-- R19: the 48-bit view as a number. -/
theorem toNat_serial48 (s : State) :
    (serial48 s).toNat = (s.res0.toNat <<< 32) ||| (s.res1.toNat <<< 16) ||| s.res2.toNat := by
  simp only [serial48, BitVec.toNat_append, Nat.shiftLeft_or_distrib, ← Nat.shiftLeft_add]

/-- Settles O23: the writes of the port, its reads by number, and the numbers that are no register. -/
theorem hostRegisterPort : Obligations.HostRegisterPort := by
  refine ⟨fun s n v rest hi hb hd => ?write, fun s => ?read, fun s n hn => ?none⟩
  case write => rw [step_hostWrite ((waits_iff _).2 ⟨hb, hd⟩) hi, hostWriteReg_eq]
  case read =>
    exact ⟨rfl, rfl, rfl, rfl, toNat_status s, rfl, rfl, rfl, rfl, rfl, rfl, rfl, rfl, toNat_serial48 s, rfl, rfl, rfl⟩
  case none =>
    obtain ⟨k, rfl⟩ := Nat.exists_eq_add_of_le' hn
    rfl

/-- R14: a run over a host write. -/
theorem core_run_hostWrite {s : State} {n k : Nat} {v : BitVec 32} {rest : List Input} (hp : s.phase = .idle)
    (hi : s.inputs = .hostWrite n v :: rest) :
    Sys2Proof.core.run (k + 1) s = Sys2Proof.core.run k (hostWriteReg n v { s with inputs := rest }) := by
  have stepped : Sys2Proof.core.step s = .next (hostWriteReg n v { s with inputs := rest }) :=
    step_hostWrite (by rw [hp]; rfl) hi
  simp only [Host.Core.run, stepped]

/-- Settles O55: the events of a line are host writes up to the `start`, and each is one step. -/
theorem hostLineSetsUpItsOperation : Obligations.HostLineSetsUpItsOperation := by
  intro s rest hp
  refine ⟨fun line code hmem hi => ?selectOnly, fun co2eq tvoc hi => ?setBaseline, fun co2eq tvoc hi => ?initialise,
    fun v hi => ?setHumidity⟩
  case selectOnly =>
    simp only [List.mem_cons, Prod.mk.injEq, List.not_mem_nil, or_false] at hmem
    rcases hmem with ⟨rfl, rfl⟩ | ⟨rfl, rfl⟩ | ⟨rfl, rfl⟩ | ⟨rfl, rfl⟩ | ⟨rfl, rfl⟩ | ⟨rfl, rfl⟩ <;>
      exact core_run_hostWrite (rest := .start :: rest) hp hi
  case setBaseline | initialise =>
    rw [core_run_hostWrite hp hi, core_run_hostWrite (by exact hp) rfl, core_run_hostWrite (by exact hp) rfl]
    simp [Host.Core.run, hostWriteReg]
  case setHumidity =>
    rw [core_run_hostWrite hp hi, core_run_hostWrite (by exact hp) rfl]
    rfl

/-! ### No event, reset and time -/

/-- Settles O28: a phase that waits takes the next event, and there is none. -/
theorem noEventNoChange : Obligations.NoEventNoChange := by
  intro s hi hb hd
  rw [step_eq_tick hb (by simp [hi]), tick_no_event ((waits_iff _).2 ⟨hb, hd⟩) hi]

/-- R145: a reset that withdraws no request, or one that was not carried out. -/
theorem resetBy_none (s : State) :
    resetBy none s = .next { State.reset with inputs := s.inputs, trace := s.trace } := by
  unfold resetBy
  cases busRequest s <;> rfl

/-- Settles O29: reset in a phase with no request, and in WRITE and READ by the answer of the request withdrawn. -/
theorem resetAbandonsOperation : Obligations.ResetAbandonsOperation := by
  refine ⟨fun s rest hi hb hd => ?nothing, fun s r rest hi hp => ?noRequest, fun s rbytes rest hi =>
    ⟨fun hp => ?writeOk, fun hp len => ?readOk⟩, fun s rest hi => ⟨fun hp => ?writeFail, fun hp => ?readFail⟩⟩
  case nothing =>
    rw [step_event ((waits_iff _).2 ⟨hb, hd⟩) hi (by simp), onInput, resetBy_none]
  case noRequest =>
    rcases hp with hp | hp | hp <;>
      rw [step_event (by rw [hp]; rfl) hi (by simp)] <;>
      simp only [onInput, resetBy, busRequest, hp]
  case writeOk | writeFail =>
    rw [step_event (by rw [hp]; rfl) hi (by simp)]
    simp only [onInput, resetBy, busRequest, hp, completion]
  case readOk =>
    rw [step_event (by rw [hp]; rfl) hi (by simp)]
    simp only [onInput, resetBy, busRequest, hp, completion, if_pos len]
  case readFail =>
    rw [step_event (by rw [hp]; rfl) hi (by simp)]
    simp only [onInput, resetBy, busRequest, hp, completion]

/-- R31: `clk` cycles as the next event. -/
theorem step_clk {s : State} {n : Nat} {rest : List Input} (hw : s.phase.waits = true)
    (hi : s.inputs = .clk n :: rest) : step s = .next (clockCycles n { s with inputs := rest }) :=
  step_event hw hi (by simp)

/-- R31: TIMER counts down while a wait is in progress. -/
theorem clockCycles_of_lt {n : Nat} {s : State} (hp : s.phase = .settle ∨ s.phase = .pollwait) (h : n < s.timer) :
    clockCycles n s = { s with timer := s.timer - n } := by
  rw [clockCycles, if_pos hp, if_neg (by omega)]

/-- R31: the wait is over when TIMER reaches 0. -/
theorem clockCycles_of_le {n : Nat} {s : State} (hp : s.phase = .settle ∨ s.phase = .pollwait) (h : s.timer ≤ n) :
    clockCycles n s = waitOver s := by
  rw [clockCycles, if_pos hp, if_pos h]

theorem clockCycles_of_no_wait {n : Nat} {s : State} (hs : s.phase ≠ .settle) (hp : s.phase ≠ .pollwait) :
    clockCycles n s = s := if_neg (by simp [hs, hp])

/-- R100: the end of the settle wait. -/
theorem waitOver_settle {s : State} (hp : s.phase = .settle) :
    waitOver s = { s with timer := 0, phase := .read, trace := s.trace ++ [.wait s.settleMs.toNat] } := by
  simp only [waitOver, hp, record]

/-- R114: the end of the wait before a poll. -/
theorem waitOver_pollwait {s : State} (hp : s.phase = .pollwait) :
    waitOver s = loadCommand .measure { s with timer := 0, trace := s.trace ++ [.wait 1000] } := by
  simp only [waitOver, hp, record, pollPeriodMs]

/-- Settles O30: the load at a successful write, the count, its end in SETTLE and POLLWAIT, and the other phases. -/
theorem timerCountsDown : Obligations.TimerCountsDown := by
  refine ⟨fun s bytes rest hi hp hn hs => ?load, fun s n rest hi hp h => ?count, fun s n rest hi hp h => ?settleEnds,
    fun s n rest hi hp h => ?pollBegins, fun s n rest hi hp => ?noWait⟩
  case load => rw [step_eq_tick (by simp [hp]) (by simp [hp]), tick_write_ok hp hi hn hs]
  case count =>
    rw [step_clk (by rcases hp with hp | hp <;> rw [hp] <;> rfl) hi]
    exact congrArg Host.Outcome.next (clockCycles_of_lt (s := { s with inputs := rest }) hp h)
  case settleEnds =>
    rw [step_clk (by rw [hp]; rfl) hi]
    exact congrArg Host.Outcome.next
      ((clockCycles_of_le (s := { s with inputs := rest }) (.inl hp) h).trans (waitOver_settle hp))
  case pollBegins =>
    rw [step_clk (by rw [hp]; rfl) hi]
    exact congrArg Host.Outcome.next
      ((clockCycles_of_le (s := { s with inputs := rest }) (.inr hp) h).trans (waitOver_pollwait hp))
  case noWait =>
    rcases hp with hp | hp | hp <;>
      rw [step_clk (by rw [hp]; rfl) hi, clockCycles_of_no_wait (by simp [hp]) (by simp [hp])]

/-! ### What a step leaves to the host -/

/-- Of the events, a phase step takes at most the next. -/
theorem tick_inputs {s t : State} (h : tick s = .next t) : t.inputs <:+ s.inputs := by
  rcases tick_next h with ⟨-, rfl⟩ | ⟨-, decoded⟩ | ⟨-, -, rfl⟩ | ⟨-, e, rest, hi, taken⟩
  · exact List.suffix_rfl
  · rw [(BlockKeeps.of_decodePhase decoded).inputs]
  · exact List.suffix_rfl
  · rw [onInput_inputs taken, hi]
    exact List.suffix_cons e rest

/-- R15, R16, R17: the operand registers hold given values. -/
def HoldsOperands (opsel : BitVec 4) (arg0 arg1 : Word) (hum : BitVec 32) (s : State) : Prop :=
  s.opsel = opsel ∧ s.arg0 = arg0 ∧ s.arg1 = arg1 ∧ s.hum = hum

theorem BlockKeeps.operands {s t : State} (h : BlockKeeps s t) : HoldsOperands s.opsel s.arg0 s.arg1 s.hum t :=
  ⟨h.opsel, h.arg0, h.arg1, h.hum⟩

theorem tick_operands {s t : State} (quiet : ∀ e ∈ s.inputs, (∀ n v, e ≠ .hostWrite n v) ∧ ∀ c, e ≠ .rst c)
    (h : tick s = .next t) : HoldsOperands s.opsel s.arg0 s.arg1 s.hum t := by
  rcases tick_next h with ⟨-, rfl⟩ | ⟨-, decoded⟩ | ⟨-, -, rfl⟩ | ⟨-, e, rest, hi, taken⟩
  · exact (BlockKeeps.buildPhase s).operands
  · exact (BlockKeeps.of_decodePhase decoded).operands
  · exact (BlockKeeps.refl _).operands
  · obtain ⟨noWrite, noReset⟩ := quiet e (by simp [hi])
    exact (BlockKeeps.of_onInput noWrite noReset taken).operands

/-- Settles O24: neither a phase step nor anything else in a step writes an operand register. -/
theorem operandRegistersAreTheHosts : Obligations.OperandRegistersAreTheHosts := by
  intro s t quiet h
  refine (step_keeps (P := fun u => (∀ e ∈ u.inputs, (∀ n v, e ≠ .hostWrite n v) ∧ ∀ c, e ≠ .rst c) ∧
    HoldsOperands s.opsel s.arg0 s.arg1 s.hum u) ?tick ?reserved ?load ⟨quiet, rfl, rfl, rfl, rfl⟩ h).2
  case tick =>
    intro u v ⟨quiet, opsel, arg0, arg1, hum⟩ ht
    refine ⟨fun e he => quiet e ((tick_inputs ht).subset he), ?_⟩
    rw [← opsel, ← arg0, ← arg1, ← hum]
    exact tick_operands quiet ht
  case reserved =>
    exact fun u rest hi ⟨quiet, hu⟩ => ⟨fun e he => quiet e (by rw [hi]; exact List.mem_cons_of_mem _ he), hu⟩
  case load => exact fun _ _ _ _ hu => hu

/-- R20, R22: the sticky flags that were set are still set. -/
def KeepsSticky (s t : State) : Prop := (s.ovr = true → t.ovr = true) ∧ (s.lastv = true → t.lastv = true)

theorem BlockKeeps.sticky {s t : State} (h : BlockKeeps s t) : KeepsSticky s t := ⟨h.ovr, h.lastv⟩

theorem tick_sticky {s t : State} (noReset : ∀ e ∈ s.inputs, ∀ c, e ≠ .rst c) (h : tick s = .next t) :
    KeepsSticky s t := by
  rcases tick_next h with ⟨-, rfl⟩ | ⟨-, decoded⟩ | ⟨-, -, rfl⟩ | ⟨-, e, rest, hi, taken⟩
  · exact (BlockKeeps.buildPhase s).sticky
  · exact (BlockKeeps.of_decodePhase decoded).sticky
  · exact (BlockKeeps.refl _).sticky
  · by_cases write : ∃ n v, e = .hostWrite n v
    · obtain ⟨n, v, rfl⟩ := write
      obtain ⟨_, _, _, _, written⟩ := hostWriteReg_cases n v { s with inputs := rest }
      cases taken
      rw [written]
      exact ⟨id, id⟩
    · exact (BlockKeeps.of_onInput (fun n v he => write ⟨n, v, he⟩) (noReset e (by simp [hi])) taken).sticky

/-- Settles O25: a phase step keeps the sticky flags, and so does whatever else a step does. -/
theorem stickyFlags : Obligations.StickyFlags := by
  intro s t noReset h
  refine (step_keeps (P := fun u => (∀ e ∈ u.inputs, ∀ c, e ≠ .rst c) ∧ KeepsSticky s u) ?tick ?reserved ?load
    ⟨noReset, id, id⟩ h).2
  case tick =>
    intro u v ⟨noReset, hu⟩ ht
    obtain ⟨ovr, lastv⟩ := tick_sticky noReset ht
    exact ⟨fun e he => noReset e ((tick_inputs ht).subset he), ovr ∘ hu.1, lastv ∘ hu.2⟩
  case reserved =>
    exact fun u rest hi ⟨noReset, hu⟩ => ⟨fun e he => noReset e (by rw [hi]; exact List.mem_cons_of_mem _ he), hu⟩
  case load => exact fun _ _ _ _ hu => hu

end Sys2Proof.Machine
end

section
/-! PROOF. The invariant of the registers: what holds between the commands of an operation, and from it that the end of
an operation, the begin of a command and every phase step keep `Inv`. -/

namespace Sys2Proof.Machine
open Sys2Proof

/-! ### The bytes of the command in the working registers -/

theorem paramWords_length_le (s : State) : (paramWords s).length ≤ 2 := by
  rw [paramWords, List.length_take]
  exact Nat.min_le_right _ _

/-- R29: every command fits TXBUF. -/
theorem commandBytes_length_le (s : State) : (commandBytes s).length ≤ 8 := by
  have := paramWords_length_le s
  simp only [commandBytes, List.length_cons, encodeFrame_length]
  omega

/-- R97: what BUILD leaves in TXBUF for the write is the command. -/
theorem buildPhase_sent (s : State) :
    (buildPhase s).txbuf.take (buildPhase s).txlen.toNat = commandBytes s := by
  have := commandBytes_length_le s
  rw [buildPhase_txlen, BitVec.toNat_ofNat, Nat.mod_eq_of_lt (by omega)]
  exact overwrite_take _ _

/-! ### Rows of the command table -/

/-- R65: only the nine operations issue a command. -/
theorem decodeSelect_of_issues {op : BitVec 4} {cmd : WireCmd} (h : issues op cmd = true) :
    ∃ i, decodeSelect op = .ok i := by
  refine (decodeSelect_cases op).resolve_right ?_
  revert op
  cases cmd <;> decide

/-- R59, R108: a command with a response has a settle delay and no parameter. -/
theorem cmdRow_of_words {cmd : WireCmd} (h : (cmdRow cmd).words ≠ 0) :
    (cmdRow cmd).settle ≠ 0 ∧ (cmdRow cmd).params = 0 := by
  revert h
  cases cmd <;> decide

/-! ### Between the commands of an operation -/

/-- No error is recorded and no wait is in progress. -/
structure Clear (s : State) : Prop where
  txbufSize : s.txbuf.length = 8
  rxbufSize : s.rxbuf.length = 9
  noErr : s.err = 0
  noErrdata : s.errdata = 0
  noErrcrc : s.errcrc = 0
  noErrval : s.errval = 0
  noWait : s.timer = 0
  pollBound : s.pollcnt.toNat ≤ 20

/-- An operation runs, no error is recorded, no wait is in progress, and INITIALISE has polls left. -/
structure Active (s : State) : Prop extends Clear s where
  busy : s.busy = true
  notDone : s.done = false
  pollsLeft : s.op = 0 → s.pollcnt.toNat < 20

/-- R27, R65: the working registers hold a row that the operation in OP issues. -/
def HoldsIssued (s : State) : Prop := ∃ cmd, issues s.op cmd = true ∧ holdsRow cmd s

/-- R24: BUSY = 1 outside IDLE. -/
theorem Inv.busy {s : State} (h : Inv s) (hp : s.phase ≠ .idle) : s.busy = true := by
  rw [ne_eq, h.idleIffNotBusy] at hp
  simpa using hp

theorem Inv.not_busy {s : State} (h : Inv s) (hp : s.phase = .idle) : s.busy = false := h.idleIffNotBusy.1 hp

theorem Inv.holdsIssued {s : State} (h : Inv s) (hp : s.phase ≠ .idle) : HoldsIssued s := h.running (h.busy hp)

/-- R25, R114: while an operation runs it is active, but for a wait that may be in progress. -/
theorem Inv.active_but_wait {s : State} (h : Inv s) (hp : s.phase ≠ .idle) : Active { s with timer := 0 } := by
  have busy := h.busy hp
  have noErr := h.noErrWhileBusy busy
  obtain ⟨noErrdata, noErrcrc⟩ := h.checksumPayload (by simp [noErr])
  exact { h with
    noErr := noErr, noErrdata := noErrdata, noErrcrc := noErrcrc, noErrval := h.valuePayload (.inl noErr)
    noWait := rfl, busy := busy, notDone := by simpa [busy] using h.notBusyAndDone, pollsLeft := h.pollsLeft busy }

/-- R31: in these phases there is no wait. -/
theorem Inv.active {s : State} (h : Inv s) (hp : s.phase = .write ∨ s.phase = .read ∨ s.phase = .decode) :
    Active s :=
  { h.active_but_wait (by rcases hp with hp | hp | hp <;> simp [hp]) with
    noWait := h.timerIdle (by rcases hp with hp | hp | hp <;> simp [hp])
      (by rcases hp with hp | hp | hp <;> simp [hp]) }

/-- R25: accepting a `start` clears the error registers and the count of polls. -/
theorem Inv.active_accept {s : State} (h : Inv s) (hp : s.phase = .idle) (code : BitVec 4) :
    Active (accept code s) where
  txbufSize := h.txbufSize
  rxbufSize := h.rxbufSize
  noErr := rfl
  noErrdata := rfl
  noErrcrc := rfl
  noErrval := rfl
  noWait := h.timerIdle (by simp [hp]) (by simp [hp])
  pollBound := by simp
  busy := rfl
  notDone := rfl
  pollsLeft := by simp

/-- The registers that no clause of `Inv` reads can take any value. -/
theorem Inv.unread {s : State} (h : Inv s) (opsel : BitVec 4) (arg0 arg1 : Word) (hum : BitVec 32) (ovr : Bool)
    (inputs : List Input) (trace : List BusEvent) :
    Inv { s with opsel := opsel, arg0 := arg0, arg1 := arg1, hum := hum, ovr := ovr, inputs := inputs,
                 trace := trace } := { h with }

theorem Active.record {s : State} (h : Active s) (e : BusEvent) : Active (record e s) := { h with }
theorem Active.afterCheck {s : State} (h : Active s) (frame : List Byte) : Active (afterCheck frame s) := { h with }
theorem Active.loadBaseline {s : State} (h : Active s) : Active (loadBaseline s) := { h with }
theorem Active.loadHumidity {s : State} (h : Active s) : Active (loadHumidity s) := { h with }
theorem Clear.storeResults {s : State} (h : Clear s) (ws : List Word) : Clear (storeResults ws s) := { h with }
theorem Clear.takeMeasurement {s : State} (h : Clear s) (ws : List Word) : Clear (takeMeasurement ws s) := { h with }

/-- R126, R127, R134: error entry keeps the invariant: the code is set, and only its own payload. -/
theorem Clear.inv_raise {s : State} (h : Clear s) (e : HwError) : Inv (raise e s) where
  idleIffNotBusy := by simp
  notBusyAndDone := by simp
  txbufSize := by simpa using h.txbufSize
  rxbufSize := by simpa using h.rxbufSize
  errCodes := by cases e <;> simp [errCode]
  noErrWhileBusy := by simp
  noResultAfterError := by simp
  checksumPayload := by cases e <;> simp [errCode, h.noErrdata, h.noErrcrc]
  valuePayload := by cases e <;> simp [errCode, h.noErrval]
  timerIdle := by simp [h.noWait]
  running := by simp
  pollwaitOp := by simp
  responding := by simp
  transmitted := by simp
  received := by simp
  pollBound := by simpa using h.pollBound
  pollsLeft := by simp

/-- R111: ending without error keeps the invariant. -/
theorem Clear.inv_finish {s : State} (h : Clear s) (k : BitVec 2) : Inv (finish k s) where
  idleIffNotBusy := by simp
  notBusyAndDone := by simp
  txbufSize := h.txbufSize
  rxbufSize := h.rxbufSize
  errCodes := by simp [h.noErr]
  noErrWhileBusy := by simp
  noResultAfterError := by simp [h.noErr]
  checksumPayload := by simp [h.noErrdata, h.noErrcrc]
  valuePayload := by simp [h.noErrval]
  timerIdle := by simp [h.noWait]
  running := by simp
  pollwaitOp := by simp
  responding := by simp
  transmitted := by simp
  received := by simp
  pollBound := h.pollBound
  pollsLeft := by simp

/-- R27: loading a command that the operation issues keeps the invariant. -/
theorem Active.inv_loadCommand {s : State} (h : Active s) {cmd : WireCmd} (hc : issues s.op cmd = true) :
    Inv (loadCommand cmd s) where
  idleIffNotBusy := by simp [h.busy]
  notBusyAndDone := by simp [h.notDone]
  txbufSize := h.txbufSize
  rxbufSize := h.rxbufSize
  errCodes := by simp [h.noErr]
  noErrWhileBusy := fun _ => h.noErr
  noResultAfterError := by simp [h.noErr]
  checksumPayload := fun _ => ⟨h.noErrdata, h.noErrcrc⟩
  valuePayload := fun _ => h.noErrval
  timerIdle := fun _ _ => h.noWait
  running := fun _ => ⟨cmd, hc, rfl, rfl, rfl, rfl⟩
  pollwaitOp := by simp
  responding := by simp
  transmitted := by simp
  received := by simp
  pollBound := h.pollBound
  pollsLeft := fun _ => h.pollsLeft

/-- R114: beginning the wait before a poll keeps the invariant. -/
theorem Active.inv_beginPoll {s : State} (h : Active s) (row : HoldsIssued s) (op : s.op = 0) (ms : Nat) :
    Inv (beginWait .pollwait ms s) where
  idleIffNotBusy := by simp [h.busy]
  notBusyAndDone := by simp [h.notDone]
  txbufSize := h.txbufSize
  rxbufSize := h.rxbufSize
  errCodes := by simp [h.noErr]
  noErrWhileBusy := fun _ => h.noErr
  noResultAfterError := by simp [h.noErr]
  checksumPayload := fun _ => ⟨h.noErrdata, h.noErrcrc⟩
  valuePayload := fun _ => h.noErrval
  timerIdle := by simp
  running := fun _ => row
  pollwaitOp := fun _ => op
  responding := by simp
  transmitted := by simp
  received := by simp
  pollBound := h.pollBound
  pollsLeft := fun _ => h.pollsLeft

/-! ### Each step of the sequencer keeps the invariant -/

/-- R114: counting a poll when one is left stays within 20. -/
theorem toNat_pollcnt_succ {n : BitVec 5} (h : n.toNat < 20) : (n + 1).toNat = n.toNat + 1 := by
  rw [BitVec.toNat_add_of_lt (by simp; omega)]
  rfl

theorem Active.inv_returnInitialise {s : State} (h : Active s) (row : HoldsIssued s) (op : s.op = 0) (ws : List Word) :
    Inv (returnInitialise ws s) := by
  have count := toNat_pollcnt_succ (h.pollsLeft op)
  have left := h.pollsLeft op
  rcases returnInitialise_cases ws s with ⟨-, h'⟩ | ⟨-, -, h'⟩ | ⟨-, -, more, h'⟩ <;> rw [h']
  · exact Active.inv_beginPoll (s := { s with pollcnt := 0 })
      { h with pollBound := by simp, pollsLeft := by simp } row op 1000
  · refine Clear.inv_finish (s := { takeMeasurement ws s with pollcnt := s.pollcnt + 1 }) ?_ 2
    exact { h.takeMeasurement ws with pollBound := by simp only; omega }
  · have more : s.pollcnt.toNat + 1 ≠ 20 := by
      rw [← count]
      exact fun h => more (BitVec.eq_of_toNat_eq h)
    refine Active.inv_beginPoll (s := { takeMeasurement ws s with pollcnt := s.pollcnt + 1 }) ?_ row op 1000
    exact { h.takeMeasurement ws, h with
      pollBound := by simp only; omega
      pollsLeft := fun _ => by simp only; omega }

/-- R92, R104: handing the words of an EXECUTE to its operation keeps the invariant. -/
theorem Active.inv_returnWords {s t : State} (h : Active s) (row : HoldsIssued s) {ws : List Word}
    (returned : returnWords ws s = .next t) : Inv t := by
  rcases returnWords_next returned with ⟨op, rfl⟩ | ⟨op, rfl⟩ | ⟨-, rfl⟩ | ⟨-, rfl⟩ | ⟨-, rfl⟩ | ⟨-, rfl⟩ | ⟨-, rfl⟩ |
    ⟨-, rfl⟩ | ⟨-, rfl⟩
  · exact h.inv_returnInitialise row op ws
  · unfold returnInitialiseBl
    split
    · exact h.inv_loadCommand (by rw [op]; rfl)
    · exact h.inv_finish 0
  · exact (h.storeResults ws).inv_finish 3
  · exact (h.storeResults ws).inv_finish 1
  · exact (h.takeMeasurement ws).inv_finish 2
  · exact (h.storeResults ws).inv_finish 2
  · exact h.inv_finish 0
  · exact (h.storeResults ws).inv_finish 2
  · exact h.inv_finish 0

theorem Inv.buildPhase {s : State} (h : Inv s) (hp : s.phase = .build) : Inv (buildPhase s) :=
  { h with
    idleIffNotBusy := by simp [h.busy (by simp [hp])]
    txbufSize := by
      have := commandBytes_length_le s
      rw [buildPhase_txbuf, overwrite_length _ _ (by rw [h.txbufSize]; exact this), h.txbufSize]
    timerIdle := fun _ _ => h.timerIdle (by simp [hp]) (by simp [hp])
    pollwaitOp := by simp
    responding := by simp
    transmitted := fun _ => buildPhase_sent s
    received := by simp }

/-- R100: from WRITE or SETTLE to SETTLE or READ, for a command with a response. -/
theorem Inv.toResponse {s : State} (h : Inv s) (hp : s.phase = .write ∨ s.phase = .settle) (hn : s.nresp ≠ 0)
    {p : Phase} {timer : Nat} (wait : p = .settle ∨ p = .read ∧ timer = 0) :
    Inv { s with phase := p, timer := timer } :=
  { h with
    idleIffNotBusy := by
      have busy := h.busy (by rcases hp with hp | hp <;> simp [hp])
      rcases wait with rfl | ⟨rfl, -⟩ <;> simp [busy]
    timerIdle := by rcases wait with rfl | ⟨rfl, rfl⟩ <;> simp
    pollwaitOp := by rcases wait with rfl | ⟨rfl, -⟩ <;> simp
    responding := fun _ => hn
    transmitted := fun _ => h.transmitted (hp.imp_right .inl)
    received := by rcases wait with rfl | ⟨rfl, -⟩ <;> simp }

theorem Inv.record {s : State} (h : Inv s) (e : BusEvent) : Inv (record e s) := { h with }

theorem Inv.beginSettle {s : State} (h : Inv s) (hp : s.phase = .write) (hn : s.nresp ≠ 0) : Inv (beginSettle s) := by
  unfold Machine.beginSettle
  split
  · have noWait : s.timer = 0 := h.timerIdle (by simp [hp]) (by simp [hp])
    exact (h.record (.wait 0)).toResponse (.inl hp) hn (.inr ⟨rfl, noWait⟩)
  · exact h.toResponse (.inl hp) hn (.inl rfl)

/-- R101, R43: RXBUF holds every response. -/
theorem Inv.receive {s : State} (h : Inv s) (hp : s.phase = .read) {bytes : List Byte}
    (len : bytes.length = 3 * s.nresp.toNat) : Inv (receive bytes s) := by
  have fits : bytes.length ≤ 9 := by have := s.nresp.isLt; omega
  exact { h with
    idleIffNotBusy := by simp [h.busy (by simp [hp])]
    rxbufSize := by rw [receive_rxbuf, overwrite_length _ _ (by rw [h.rxbufSize]; exact fits), h.rxbufSize]
    timerIdle := fun _ _ => h.timerIdle (by simp [hp]) (by simp [hp])
    pollwaitOp := by simp
    responding := fun _ => h.responding (.inr (.inl hp))
    transmitted := fun _ => h.transmitted (.inr (.inr (.inl hp)))
    received := fun _ => by
      rw [receive_rxlen, BitVec.toNat_ofNat, Nat.mod_eq_of_lt (by omega), receive_nresp, len] }

theorem Inv.of_writeDone {s t : State} (h : Inv s) (hp : s.phase = .write) {r : BusResponse}
    (done : writeDone r s = .next t) : Inv t := by
  have active := h.active (.inl hp)
  have row := h.holdsIssued (by simp [hp])
  rcases writeDone_next done with ⟨-, rfl⟩ | ⟨_, -, -, returned⟩ | ⟨_, -, hn, rfl⟩
  · exact (active.record _).inv_raise _
  · exact (active.record _).inv_returnWords row returned
  · exact (h.record _).beginSettle hp hn

theorem Inv.of_readDone {s t : State} (h : Inv s) (hp : s.phase = .read) {r : BusResponse}
    (done : readDone r s = .next t) : Inv t := by
  rcases readDone_next done with ⟨-, rfl⟩ | ⟨bytes, -, len, rfl⟩
  · exact ((h.active (.inr (.inl hp))).record _).inv_raise _
  · exact (h.record _).receive hp len

theorem Inv.of_decodePhase {s t : State} (h : Inv s) (hp : s.phase = .decode) (done : decodePhase s = .next t) :
    Inv t := by
  have active := h.active (.inr (.inr hp))
  rcases decodePhase_next done with ⟨_, -, returned⟩ | ⟨_, _, -, rfl⟩
  · exact (active.afterCheck _).inv_returnWords (h.holdsIssued (by simp [hp])) returned
  · exact (active.afterCheck _).inv_raise _

theorem Inv.waitOver {s : State} (h : Inv s) : Inv (waitOver s) := by
  rcases waitOver_cases s with ⟨hp, h'⟩ | ⟨hp, h'⟩ | ⟨-, -, h'⟩ <;> rw [h']
  · exact (h.record _).toResponse (.inr hp) (h.responding (.inl hp)) (.inr ⟨rfl, rfl⟩)
  · exact ((h.active_but_wait (by simp [hp])).record _).inv_loadCommand (by exact (h.pollwaitOp hp) ▸ rfl)
  · exact h

theorem Inv.clockCycles {s : State} (h : Inv s) (n : Nat) : Inv (clockCycles n s) := by
  rcases clockCycles_cases n s with h' | h' | ⟨hp, h'⟩ <;> rw [h']
  · exact h
  · exact h.waitOver
  · exact { h with timerIdle := fun hs hw => absurd hp (not_or.2 ⟨hs, hw⟩) }

/-- R25, R66: an accepted `start` begins an operation that issues its first command, or ends at once. -/
theorem Inv.beginSelected {s : State} (h : Inv s) (hp : s.phase = .idle) : Inv (beginSelected s) := by
  obtain ⟨code, u, loaded, begun⟩ := beginSelected_shape s
  have active : Active u ∧ u.op = code := by
    rcases loaded with rfl | rfl | rfl
    · exact ⟨h.active_accept hp code, rfl⟩
    · exact ⟨(h.active_accept hp code).loadBaseline, rfl⟩
    · exact ⟨(h.active_accept hp code).loadHumidity, rfl⟩
  rcases begun with ⟨cmd, issued, h'⟩ | ⟨e, h'⟩ <;> rw [h']
  · exact active.1.inv_loadCommand (active.2 ▸ issued)
  · exact active.1.inv_raise e

theorem inv_reset : Inv State.reset := by
  constructor
  case running => exact fun busy => nomatch busy
  all_goals decide

theorem Inv.of_onInput {s t : State} (h : Inv s) {e : Input} (taken : onInput e s = .next t) : Inv t := by
  cases e with
  | hostWrite n v =>
    obtain ⟨_, _, _, _, written⟩ := hostWriteReg_cases n v s
    cases taken
    rw [written]
    exact h.unread _ _ _ _ _ _ _
  | start =>
    injection taken with taken
    subst taken
    split
    case isTrue => exact h.unread _ _ _ _ _ _ _
    case isFalse busy => exact h.beginSelected (h.idleIffNotBusy.2 (by simpa using busy))
  | rst c =>
    rcases resetBy_next taken with rfl | ⟨_, _, _, -, -, -, rfl⟩ <;> exact inv_reset.unread _ _ _ _ _ _ _
  | bus r =>
    rcases busAnswer_next taken with ⟨hp, done⟩ | ⟨hp, done⟩
    · exact h.of_writeDone hp done
    · exact h.of_readDone hp done
  | clk n => cases taken; exact h.clockCycles n
  | waitEnd => cases taken; exact h.waitOver

/-- R11: every phase step keeps the invariant. -/
theorem Inv.of_tick {s t : State} (h : Inv s) (ht : tick s = .next t) : Inv t := by
  rcases tick_next ht with ⟨hp, rfl⟩ | ⟨hp, decoded⟩ | ⟨-, -, rfl⟩ | ⟨-, e, rest, -, taken⟩
  · exact h.buildPhase hp
  · exact h.of_decodePhase hp decoded
  · exact h
  · exact (h.unread _ _ _ _ _ rest _).of_onInput taken

/-! ### Steps from a state of the invariant -/

theorem wireInstr_isHostOp (cmd : WireCmd) (p q : Word) : (wireInstr cmd p q).isHostOp = false := by
  cases cmd <;> rfl

theorem wireInstr_wellFormed (cmd : WireCmd) (p q : Word) : (wireInstr cmd p q).wellFormed = true := by
  cases cmd <;> simp [wireInstr, Instr.wellFormed]

/-- R57, R97: with a row in the working registers, the bytes sent are the encoding of its instruction. -/
theorem encode_wireInstr {cmd : WireCmd} {s : State} (row : holdsRow cmd s) :
    encode (wireInstr cmd s.p0 s.p1) = commandBytes s := by
  obtain ⟨opc, npar, -, -⟩ := row
  rw [commandBytes, paramWords, opc, npar]
  cases cmd <;> rfl

/-- R103: its meaning is the EXECUTE of the row that is loaded already. -/
theorem exec_wireInstr (cmd : WireCmd) (s : State) :
    exec (wireInstr cmd s.p0 s.p1) s = runExecute (loadCommand cmd s) := by
  cases cmd <;> rfl

theorem loadCommand_of_holdsRow {cmd : WireCmd} {s : State} (row : holdsRow cmd s) (hp : s.phase = .build) :
    loadCommand cmd s = s := by
  obtain ⟨opc, npar, nresp, settle⟩ := row
  rw [loadCommand, ← opc, ← npar, ← nresp, ← settle, ← hp]

/-- R104: with a row in the working registers, the step in BUILD goes on from the phase step of BUILD. -/
theorem step_build_of_holdsRow {cmd : WireCmd} {s : State} (hp : s.phase = .build) (row : holdsRow cmd s) :
    step s = run executeOver (enough s) (buildPhase s) := by
  have fetched : decode (commandBytes s) = .ok (wireInstr cmd s.p0 s.p1) := by
    rw [← encode_wireInstr row]
    exact decodeOfEncode _ (wireInstr_wellFormed _ _ _)
  rw [stepRunsWireCommand s _ hp fetched, exec_wireInstr, loadCommand_of_holdsRow row hp, runExecute]

/-- R11, R24: from a state of the invariant a step is a phase step, or a phase step and a run of further ones. -/
theorem Inv.step_eq {s : State} (h : Inv s) :
    step s = tick s ∨ ∃ stop n u, tick s = .next u ∧ step s = run stop n u := by
  by_cases hb : s.phase = .build
  · obtain ⟨cmd, -, row⟩ := h.holdsIssued (by simp [hb])
    exact .inr ⟨_, _, _, tick_build hb, step_build_of_holdsRow hb row⟩
  · by_cases hi : s.phase = .idle ∧ ∃ rest, s.inputs = .start :: rest
    · obtain ⟨hp, rest, hi⟩ := hi
      have idle := h.not_busy hp
      exact .inr ⟨_, _, _, tick_start hp idle hi, step_start_idle hp idle hi⟩
    · exact .inl (step_eq_tick hb fun hp rest hs => hi ⟨hp, rest, hs⟩)

/-- Packaged once: what every phase step keeps under the invariant, every step keeps under it. -/
theorem Inv.step_keeps {P : State → Prop} (hP : ∀ s t, Inv s → P s → tick s = .next t → P t) {s t : State}
    (h : Inv s) (hs : P s) (stepped : step s = .next t) : Inv t ∧ P t := by
  have both : ∀ s t, Inv s ∧ P s → tick s = .next t → Inv t ∧ P t :=
    fun s t hs ht => ⟨hs.1.of_tick ht, hP s t hs.1 hs.2 ht⟩
  rcases h.step_eq with ticks | ⟨stop, n, u, ticks, runs⟩
  · exact both s t ⟨h, hs⟩ (ticks ▸ stepped)
  · exact run_keeps both (both s u ⟨h, hs⟩ ticks) (runs ▸ stepped)

/-- Settles O13: every phase step keeps the invariant, and a step is a run of them. -/
theorem stepKeepsInvariant : Obligations.StepKeepsInvariant :=
  fun _ _ h stepped => (h.step_keeps (P := fun _ => True) (fun _ _ _ _ _ => trivial) trivial stepped).1

/-- Settles O11: each value of R34, read off the state after reset. -/
theorem resetValues : Obligations.ResetValues :=
  ⟨rfl, rfl, rfl, rfl, rfl, rfl, rfl, rfl, rfl, rfl, rfl, rfl, rfl, rfl, rfl, rfl, rfl⟩

/-! ### Progress -/

/-- R91: a frame of whole blocks is in DECODE's domain. -/
theorem decodeBlocks_ne_badLength {n : Nat} {frame : List Byte} (len : frame.length = 3 * n) :
    decodeBlocks frame ≠ .error .badLength := by
  induction n generalizing frame with
  | zero =>
    rw [List.length_eq_zero_iff.1 len]
    simp [decodeBlocks]
  | succ n ih =>
    match frame, len with
    | b0 :: b1 :: c :: rest, len =>
      have decoded := ih (frame := rest) (by simp at len; omega)
      rw [decodeBlocks]
      cases verify b0 b1 c with
      | false => simp
      | true => cases h : decodeBlocks rest <;> simp_all

/-- R66, R92: an operation that issues commands takes the words of an EXECUTE. -/
theorem returnWords_of_issues {s : State} {cmd : WireCmd} (h : issues s.op cmd = true) (ws : List Word) :
    ∃ t, returnWords ws s = .next t := by
  obtain ⟨i, selected⟩ := decodeSelect_of_issues h
  have host := (decodeSelect_ok selected).2.1
  simp only [returnWords, selected]
  cases i <;> first | exact ⟨_, rfl⟩ | cases host

/-- R91, R101: in DECODE the frame has the right length, so the phase ends with words or with InvalidChecksum. -/
theorem Inv.decodePhase_progress {s : State} (h : Inv s) (hp : s.phase = .decode) : ∃ t, decodePhase s = .next t := by
  have len : (s.rxbuf.take s.rxlen.toNat).length = 3 * s.nresp.toNat := by
    have := s.nresp.isLt
    rw [List.length_take, h.received hp, h.rxbufSize]
    omega
  obtain ⟨cmd, issued, -⟩ := h.holdsIssued (by simp [hp])
  have domain := decodeBlocks_ne_badLength len
  rw [← decodeFrame_of_length len] at domain
  simp only [decodePhase]
  split
  · exact returnWords_of_issues (by exact issued) _
  · exact ⟨_, rfl⟩
  · exact absurd ‹_› domain

/-- R98, R107: in WRITE any answer is taken. -/
theorem Inv.writeDone_progress {s : State} (h : Inv s) (hp : s.phase = .write) (r : BusResponse) :
    ∃ t, writeDone r s = .next t := by
  obtain ⟨cmd, issued, -⟩ := h.holdsIssued (by simp [hp])
  cases r with
  | fail => exact ⟨_, rfl⟩
  | ok bytes =>
    simp only [writeDone]
    split
    · exact returnWords_of_issues (by exact issued) _
    · exact ⟨_, rfl⟩

theorem busAnswer_write {s : State} (hp : s.phase = .write) (r : BusResponse) : busAnswer r s = writeDone r s := by
  simp only [busAnswer, hp]

theorem busAnswer_read {s : State} (hp : s.phase = .read) (r : BusResponse) : busAnswer r s = readDone r s := by
  simp only [busAnswer, hp]

/-- R38: a request is outstanding in WRITE and READ only. -/
theorem busRequest_eq_some {s : State} {request : BusRequest} (h : busRequest s = some request) :
    (s.phase = .write ∧ request = .write Config.periphAddr (s.txbuf.take s.txlen.toNat)) ∨
    (s.phase = .read ∧ request = .read Config.periphAddr (3 * s.nresp.toNat)) := by
  unfold busRequest at h
  split at h
  · exact .inl ⟨‹_›, (Option.some.inj h).symm⟩
  · exact .inr ⟨‹_›, (Option.some.inj h).symm⟩
  · cases h

/-- R44, R145: a reset is taken when the answer of the request it withdraws, if there is one, has the right length. -/
theorem resetBy_progress {s : State} {response : BusResponse}
    (h : ∀ request, busRequest s = some request → ∃ e, completion request response = some e) :
    ∃ t, resetBy (some response) s = .next t := by
  unfold resetBy
  cases outstanding : busRequest s with
  | none => exact ⟨_, rfl⟩
  | some request =>
    obtain ⟨e, completed⟩ := h request outstanding
    exact ⟨_, by simp only [completed]; rfl⟩

/-- R37, R38, R44: an event that keeps the contract is taken. -/
theorem Inv.onInput_progress {s : State} (h : Inv s) {e : Input} {rest : List Input} (hi : s.inputs = e :: rest)
    (contract : keepsContract s) : ∃ t, onInput e { s with inputs := rest } = .next t := by
  simp only [keepsContract, hi] at contract
  have inv : Inv { s with inputs := rest } := h.unread _ _ _ _ _ rest _
  match e with
  | .hostWrite _ _ | .start | .clk _ | .waitEnd => exact ⟨_, rfl⟩
  | .bus .fail =>
    rw [onInput]
    rcases contract with hp | hp
    · rw [busAnswer_write (s := { s with inputs := rest }) hp]
      exact inv.writeDone_progress hp .fail
    · rw [busAnswer_read (s := { s with inputs := rest }) hp]
      exact ⟨_, rfl⟩
  | .bus (.ok rbytes) =>
    rw [onInput]
    rcases contract with hp | ⟨hp, len⟩
    · rw [busAnswer_write (s := { s with inputs := rest }) hp]
      exact inv.writeDone_progress hp (.ok rbytes)
    · rw [busAnswer_read (s := { s with inputs := rest }) hp]
      exact ⟨_, if_pos len⟩
  | .rst none => exact ⟨_, resetBy_none _⟩
  | .rst (some .fail) =>
    refine resetBy_progress fun request outstanding => ?_
    rcases busRequest_eq_some outstanding with ⟨-, rfl⟩ | ⟨-, rfl⟩ <;> exact ⟨_, rfl⟩
  | .rst (some (.ok rbytes)) =>
    refine resetBy_progress fun request outstanding => ?_
    rcases busRequest_eq_some outstanding with ⟨-, rfl⟩ | ⟨hp, rfl⟩
    · exact ⟨_, rfl⟩
    · exact ⟨_, if_pos (contract hp)⟩

/-! ### No refusal -/

theorem returnWords_ne_refused (ws : List Word) (s : State) (r : Refusal) : returnWords ws s ≠ .refused r := by
  unfold returnWords
  split <;> simp

theorem writeDone_ne_refused (response : BusResponse) (s : State) (r : Refusal) :
    writeDone response s ≠ .refused r := by
  cases response with
  | fail => simp [writeDone]
  | ok bytes =>
    simp only [writeDone]
    split
    · exact returnWords_ne_refused _ _ r
    · simp

theorem readDone_ne_refused (response : BusResponse) (s : State) (r : Refusal) : readDone response s ≠ .refused r := by
  cases response with
  | fail => simp [readDone]
  | ok bytes =>
    simp only [readDone]
    split <;> simp

theorem decodePhase_ne_refused (s : State) (r : Refusal) : decodePhase s ≠ .refused r := by
  simp only [decodePhase]
  split
  · exact returnWords_ne_refused _ _ r
  all_goals simp

theorem resetBy_ne_refused (c : Option BusResponse) (s : State) (r : Refusal) : resetBy c s ≠ .refused r := by
  unfold resetBy
  repeat' split
  all_goals simp

theorem busAnswer_ne_refused (response : BusResponse) (s : State) (r : Refusal) :
    busAnswer response s ≠ .refused r := by
  unfold busAnswer
  split
  · exact writeDone_ne_refused _ _ r
  · exact readDone_ne_refused _ _ r
  · simp

theorem onInput_ne_refused (e : Input) (s : State) (r : Refusal) : onInput e s ≠ .refused r := by
  cases e with
  | hostWrite | start | clk | waitEnd => simp [onInput]
  | rst c => exact resetBy_ne_refused c s r
  | bus response => exact busAnswer_ne_refused response s r

/-- Log 22: only BUILD refuses, and a phase step of BUILD builds what stands in the working registers. -/
theorem tick_ne_refused (s : State) (r : Refusal) : tick s ≠ .refused r := by
  have event : takeInput s ≠ .refused r := by
    unfold takeInput
    split
    · simp
    · exact onInput_ne_refused _ _ r
  unfold tick
  split
  · simp
  · exact decodePhase_ne_refused s r
  all_goals exact event

theorem run_ne_refused (stop : State → Bool) (n : Nat) (s : State) (r : Refusal) : run stop n s ≠ .refused r := by
  induction n generalizing s with
  | zero => simp [run]
  | succ n ih =>
    rw [run]
    split
    · simp
    · split
      · exact ih _
      · simp
      · exact absurd ‹_› (tick_ne_refused s _)

/-- Settles O20: the domain of DECODE and the row of the operation leave only the contract of the port to break; and a
step is a run of phase steps, none of which refuses. -/
theorem onlyBrokenContractsFault : Obligations.OnlyBrokenContractsFault := by
  constructor
  · intro s h contract
    cases hw : s.phase.waits with
    | true =>
      cases hi : s.inputs with
      | nil => exact ⟨s, tick_no_event hw hi⟩
      | cons e rest =>
        rw [tick_event hw hi]
        exact h.onInput_progress hi contract
    | false =>
      cases hp : s.phase <;> rw [hp] at hw <;> try cases hw
      · exact ⟨_, tick_build hp⟩
      · rw [tick_decode hp]
        exact h.decodePhase_progress hp
  · intro s r h
    rcases h.step_eq with ticks | ⟨stop, n, u, -, runs⟩
    · rw [ticks]
      exact tick_ne_refused s r
    · rw [runs]
      exact run_ne_refused stop n u r

end Sys2Proof.Machine
end

section
/-! PROOF. The trace: what may stand at its end, and from it that every phase step keeps it good; and who writes the
last Measurement. -/

namespace Sys2Proof.Machine
open Sys2Proof

/-! ### Traces -/

/-- What `TraceInv` asks of the trace in every phase. -/
structure GoodTrace (tr : List BusEvent) : Prop where
  writes : writesAreCommands tr
  reads : readsAreSettled tr

theorem goodTrace_nil : GoodTrace [] := ⟨by simp [writesAreCommands], by simp [readsAreSettled]⟩

theorem writesAreCommands_concat {tr : List BusEvent} {e : BusEvent} (h : writesAreCommands tr)
    (he : writesAreCommands [e]) : writesAreCommands (tr ++ [e]) :=
  fun addr bytes ok mem => (List.mem_append.1 mem).elim (h addr bytes ok) (he addr bytes ok)

/-- R149: a trace that grows stays settled when what is added is no read, or a read that is settled there. -/
theorem readsAreSettled_concat {tr : List BusEvent} {e : BusEvent} (h : readsAreSettled tr)
    (he : ∀ addr count result, e = .read addr count result →
      addr = Config.periphAddr ∧ (∀ bytes, result = some bytes → bytes.length = count) ∧
      ∃ earlier cmd, readLength cmd = count ∧
        tr = earlier ++ [.write Config.periphAddr (opcodeBytes (cmdRow cmd).opcode) true,
          .wait (cmdRow cmd).settle.toNat]) : readsAreSettled (tr ++ [e]) := by
  intro before after addr count result split
  rcases after.eq_nil_or_concat with rfl | ⟨after, last, rfl⟩
  · obtain ⟨rfl, last⟩ := List.append_inj' split rfl
    exact he addr count result (List.head_eq_of_cons_eq last)
  · rw [List.concat_eq_append, ← List.cons_append, ← List.append_assoc] at split
    exact h before after addr count result (List.append_inj' split rfl).1

theorem GoodTrace.wait {tr : List BusEvent} (h : GoodTrace tr) (ms : Nat) : GoodTrace (tr ++ [.wait ms]) :=
  ⟨writesAreCommands_concat h.writes (by simp [writesAreCommands]), readsAreSettled_concat h.reads (by simp)⟩

/-- R57, R61: a write of what a row of the table sends is a whole well-formed command. -/
theorem GoodTrace.write {tr : List BusEvent} (h : GoodTrace tr) {s : State} (row : HoldsIssued s) (ok : Bool) :
    GoodTrace (tr ++ [.write Config.periphAddr (commandBytes s) ok]) := by
  obtain ⟨cmd, -, row⟩ := row
  refine ⟨writesAreCommands_concat h.writes ?_, readsAreSettled_concat h.reads (by simp)⟩
  intro addr bytes ok mem
  cases List.mem_singleton.1 mem
  exact ⟨rfl, _, wireInstr_isHostOp cmd s.p0 s.p1, wireInstr_wellFormed cmd s.p0 s.p1, encode_wireInstr row⟩

/-- R57: a command with a response has no parameters: its bytes are its opcode's. -/
theorem commandBytes_of_response {cmd : WireCmd} {s : State} (row : holdsRow cmd s) (hn : s.nresp ≠ 0) :
    commandBytes s = opcodeBytes (cmdRow cmd).opcode := by
  obtain ⟨opc, npar, nresp, -⟩ := row
  have none : (cmdRow cmd).params = 0 := (cmdRow_of_words (nresp ▸ hn)).2
  rw [commandBytes, paramWords, opc, npar, none]
  rfl

/-- R51, R149: a read for the response of the command whose write and settle wait come right before it. -/
theorem GoodTrace.read {s : State} (h : GoodTrace s.trace) (row : HoldsIssued s) (hn : s.nresp ≠ 0)
    (settled : ∃ earlier,
      s.trace = earlier ++ [.write Config.periphAddr (commandBytes s) true, .wait s.settleMs.toNat])
    {result : Option (List Byte)} (len : ∀ bytes, result = some bytes → bytes.length = 3 * s.nresp.toNat) :
    GoodTrace (s.trace ++ [.read Config.periphAddr (3 * s.nresp.toNat) result]) := by
  obtain ⟨cmd, -, row⟩ := row
  obtain ⟨earlier, settled⟩ := settled
  rw [commandBytes_of_response row hn] at settled
  obtain ⟨-, -, nresp, settle⟩ := row
  refine ⟨writesAreCommands_concat h.writes (by simp [writesAreCommands]), readsAreSettled_concat h.reads ?_⟩
  intro addr count res last
  cases last
  exact ⟨rfl, len, earlier, cmd, by rw [readLength, nresp], by rw [settled, settle]⟩

/-! ### The trace of each step of the sequencer -/

theorem TraceInv.good {s : State} (h : TraceInv s) : GoodTrace s.trace := ⟨h.writes, h.reads⟩

/-- Outside SETTLE and READ a good trace is all that is asked. -/
theorem GoodTrace.traceInv {s : State} (h : GoodTrace s.trace) (hs : s.phase ≠ .settle) (hr : s.phase ≠ .read) :
    TraceInv s :=
  ⟨h.writes, h.reads, fun hp => absurd hp hs, fun hp => absurd hp hr⟩

theorem returnWords_trace {ws : List Word} {s t : State} (h : returnWords ws s = .next t) : t.trace = s.trace := by
  rcases returnWords_next h with ⟨-, rfl⟩ | ⟨-, rfl⟩ | ⟨-, rfl⟩ | ⟨-, rfl⟩ | ⟨-, rfl⟩ | ⟨-, rfl⟩ | ⟨-, rfl⟩ | ⟨-, rfl⟩ |
    ⟨-, rfl⟩
  · rcases returnInitialise_cases ws s with ⟨-, h⟩ | ⟨-, -, h⟩ | ⟨-, -, -, h⟩ <;> rw [h] <;> rfl
  · unfold returnInitialiseBl
    split <;> rfl
  all_goals rfl

/-- R104: after an EXECUTE there is neither a settle wait nor a read to come. -/
theorem GoodTrace.of_returnWords {ws : List Word} {s t : State} (h : GoodTrace s.trace)
    (returned : returnWords ws s = .next t) : TraceInv t := by
  have next := returnWords_phase returned
  refine GoodTrace.traceInv (returnWords_trace returned ▸ h) ?_ ?_ <;>
    rcases next with hp | hp | hp <;> simp [hp]

theorem beginSelected_trace (s : State) : (beginSelected s).trace = s.trace ∧
    ((beginSelected s).phase = .build ∨ (beginSelected s).phase = .idle) := by
  obtain ⟨code, u, loaded, begun⟩ := beginSelected_shape s
  have same : u.trace = s.trace := by rcases loaded with rfl | rfl | rfl <;> rfl
  rcases begun with ⟨cmd, -, h⟩ | ⟨e, h⟩ <;> simp [h, same]

theorem TraceInv.of_writeDone {s t : State} (h : TraceInv s) (inv : Inv s) (hp : s.phase = .write) {r : BusResponse}
    (done : writeDone r s = .next t) : TraceInv t := by
  have row := inv.holdsIssued (by simp [hp])
  have sent := inv.transmitted (.inl hp)
  have grown := fun ok => h.good.write row ok
  rw [← sent] at grown
  rcases writeDone_next done with ⟨-, rfl⟩ | ⟨_, -, -, returned⟩ | ⟨_, -, hn, rfl⟩
  · exact GoodTrace.traceInv (by simpa using grown false) (by simp) (by simp)
  · exact GoodTrace.of_returnWords (s := record _ s) (grown true) returned
  · have settles : s.settleMs ≠ 0 := by
      obtain ⟨cmd, -, -, -, nresp, settle⟩ := row
      rw [settle]
      exact (cmdRow_of_words (nresp ▸ hn)).1
    rw [beginSettle, if_neg (by exact settles)]
    refine ⟨(grown true).writes, (grown true).reads, fun _ => ⟨s.trace, ?_⟩, by simp⟩
    exact congrArg (fun bytes => s.trace ++ [.write Config.periphAddr bytes true]) sent

theorem TraceInv.of_readDone {s t : State} (h : TraceInv s) (inv : Inv s) (hp : s.phase = .read) {r : BusResponse}
    (done : readDone r s = .next t) : TraceInv t := by
  have row := inv.holdsIssued (by simp [hp])
  have hn := inv.responding (.inr (.inl hp))
  rcases readDone_next done with ⟨-, rfl⟩ | ⟨bytes, -, len, rfl⟩
  · exact GoodTrace.traceInv (by simpa using h.good.read row hn (h.reading hp) (by simp)) (by simp) (by simp)
  · exact GoodTrace.traceInv (h.good.read row hn (h.reading hp) (by simpa using len)) (by simp) (by simp)

theorem TraceInv.waitOver {s : State} (h : TraceInv s) : TraceInv (waitOver s) := by
  rcases waitOver_cases s with ⟨hp, h'⟩ | ⟨-, h'⟩ | ⟨-, -, h'⟩ <;> rw [h']
  · obtain ⟨earlier, settling⟩ := h.settling hp
    have grown := h.good.wait s.settleMs.toNat
    refine ⟨grown.writes, grown.reads, by simp, fun _ => ⟨earlier, ?_⟩⟩
    rw [record_trace, settling, List.append_assoc]
    rfl
  · exact (h.good.wait 1000).traceInv (by simp) (by simp)
  · exact h

theorem TraceInv.clockCycles {s : State} (h : TraceInv s) (n : Nat) : TraceInv (clockCycles n s) := by
  rcases clockCycles_cases n s with h' | h' | ⟨-, h'⟩ <;> rw [h']
  · exact h
  · exact h.waitOver
  · exact { h with }

/-- R145, U2: a reset adds at most the request it withdrew, which is one the block may make. -/
theorem TraceInv.of_resetBy {s t : State} (h : TraceInv s) (inv : Inv s) {c : Option BusResponse}
    (reset : resetBy c s = .next t) : TraceInv t := by
  rcases resetBy_next reset with rfl | ⟨request, response, e, outstanding, -, completed, rfl⟩
  · exact GoodTrace.traceInv h.good nofun nofun
  · refine GoodTrace.traceInv ?_ nofun nofun
    rcases busRequest_eq_some outstanding with ⟨hp, rfl⟩ | ⟨hp, rfl⟩
    · rw [inv.transmitted (.inl hp)] at completed
      have grown := h.good.write (inv.holdsIssued (by simp [hp]))
      cases response <;> cases completed <;> exact grown _
    · have grown {result : Option (List Byte)} := h.good.read (result := result) (inv.holdsIssued (by simp [hp]))
        (inv.responding (.inr (.inl hp))) (h.reading hp)
      cases response with
      | fail =>
        cases completed
        exact grown (by simp)
      | ok bytes =>
        rw [completion] at completed
        split at completed
        · cases completed
          exact grown (by simpa using ‹_›)
        · cases completed

theorem TraceInv.of_onInput {s t : State} (h : TraceInv s) (inv : Inv s) {e : Input} (taken : onInput e s = .next t) :
    TraceInv t := by
  cases e with
  | hostWrite n v =>
    obtain ⟨_, _, _, _, written⟩ := hostWriteReg_cases n v s
    cases taken
    rw [written]
    exact { h with }
  | start =>
    injection taken with taken
    subst taken
    split
    · exact { h with }
    · obtain ⟨trace, phase⟩ := beginSelected_trace s
      refine GoodTrace.traceInv (trace ▸ h.good) ?_ ?_ <;> rcases phase with hp | hp <;> simp [hp]
  | rst c => exact h.of_resetBy inv taken
  | bus r =>
    rcases busAnswer_next taken with ⟨hp, done⟩ | ⟨hp, done⟩
    · exact h.of_writeDone inv hp done
    · exact h.of_readDone inv hp done
  | clk n => cases taken; exact h.clockCycles n
  | waitEnd => cases taken; exact h.waitOver

theorem TraceInv.of_decodePhase {s t : State} (h : TraceInv s) (done : decodePhase s = .next t) : TraceInv t := by
  rcases decodePhase_next done with ⟨_, -, returned⟩ | ⟨_, _, -, rfl⟩
  · exact GoodTrace.of_returnWords (s := afterCheck _ s) h.good returned
  · exact GoodTrace.traceInv (by simpa using h.good) (by simp) (by simp)

/-- R11: every phase step keeps the trace invariant. -/
theorem TraceInv.of_tick {s t : State} (h : TraceInv s) (inv : Inv s) (ht : tick s = .next t) : TraceInv t := by
  rcases tick_next ht with ⟨-, rfl⟩ | ⟨-, decoded⟩ | ⟨-, -, rfl⟩ | ⟨-, e, rest, -, taken⟩
  · exact GoodTrace.traceInv (s := buildPhase s) h.good (by simp) (by simp)
  · exact h.of_decodePhase decoded
  · exact h
  · exact TraceInv.of_onInput (s := { s with inputs := rest }) { h with } (inv.unread _ _ _ _ _ rest _) taken

/-- Settles O12: both invariants at reset; the trace is empty. -/
theorem invariantAtReset : Obligations.InvariantAtReset :=
  ⟨inv_reset, GoodTrace.traceInv goodTrace_nil nofun nofun⟩

/-- Settles O14: every phase step keeps the trace invariant under the other, and a step is a run of them. -/
theorem stepKeepsTraceSettled : Obligations.StepKeepsTraceSettled :=
  fun _ _ inv h stepped => (inv.step_keeps (fun _ _ inv h ht => h.of_tick inv ht) h stepped).2

/-! ### The last Measurement -/

/-- R20: the last Measurement is as it was. -/
def KeepsMeasurement (s t : State) : Prop :=
  t.lastv = s.lastv ∧ t.lastEco2 = s.lastEco2 ∧ t.lastTvoc = s.lastTvoc

/-- R114, R118: the words of an EXECUTE are those of a measurement. -/
def Measuring (s : State) : Prop := s.op = 0 ∧ s.opc ≠ 0x2003 ∨ s.op = 4

/-- R65: the command of a measurement has two response words. -/
theorem Measuring.nresp {s : State} (h : Measuring s) (row : HoldsIssued s) : s.nresp = 2 := by
  obtain ⟨cmd, issued, opc, -, nresp, -⟩ := row
  rw [nresp]
  rcases h with ⟨op, poll⟩ | op
  · rw [op] at issued
    rw [opc] at poll
    cases cmd <;> first | exact absurd rfl poll | rfl | cases issued
  · rw [op] at issued
    cases cmd <;> first | rfl | cases issued

/-- R20, R118: only a measurement writes the last Measurement, from its words. -/
theorem returnWords_measurement {ws : List Word} {s t : State} (h : returnWords ws s = .next t) :
    KeepsMeasurement s t ∨ Measuring s ∧ t.lastv = true ∧ t.lastEco2 = ws[0]?.getD s.lastEco2 ∧
      t.lastTvoc = ws[1]?.getD s.lastTvoc := by
  rcases returnWords_next h with ⟨op, rfl⟩ | ⟨-, rfl⟩ | ⟨-, rfl⟩ | ⟨-, rfl⟩ | ⟨op, rfl⟩ | ⟨-, rfl⟩ | ⟨-, rfl⟩ |
    ⟨-, rfl⟩ | ⟨-, rfl⟩
  · rcases returnInitialise_cases ws s with ⟨-, h⟩ | ⟨poll, -, h⟩ | ⟨poll, -, -, h⟩ <;> rw [h]
    · exact .inl ⟨rfl, rfl, rfl⟩
    · exact .inr ⟨.inl ⟨op, poll⟩, rfl, rfl, rfl⟩
    · exact .inr ⟨.inl ⟨op, poll⟩, rfl, rfl, rfl⟩
  · unfold returnInitialiseBl
    split <;> exact .inl ⟨rfl, rfl, rfl⟩
  · exact .inl ⟨rfl, rfl, rfl⟩
  · exact .inl ⟨rfl, rfl, rfl⟩
  · exact .inr ⟨.inr op, rfl, rfl, rfl⟩
  all_goals exact .inl ⟨rfl, rfl, rfl⟩

theorem keepsMeasurement_raise (e : HwError) (s : State) : KeepsMeasurement s (raise e s) := by
  simp [KeepsMeasurement]

theorem keepsMeasurement_beginSelected (s : State) : KeepsMeasurement s (beginSelected s) := by
  obtain ⟨code, u, loaded, begun⟩ := beginSelected_shape s
  have same : KeepsMeasurement s u := by rcases loaded with rfl | rfl | rfl <;> exact ⟨rfl, rfl, rfl⟩
  rcases begun with ⟨cmd, -, h⟩ | ⟨e, h⟩ <;> rw [h]
  · exact same
  · simpa [KeepsMeasurement] using same

theorem keepsMeasurement_waitOver (s : State) : KeepsMeasurement s (waitOver s) := by
  rcases waitOver_cases s with ⟨-, h⟩ | ⟨-, h⟩ | ⟨-, -, h⟩ <;> rw [h] <;> exact ⟨rfl, rfl, rfl⟩

/-- R20: an event writes no last Measurement, reset apart: a write returns no words to a measurement. -/
theorem Inv.onInput_measurement {s t : State} (h : Inv s) {e : Input} (noReset : ∀ c, e ≠ .rst c)
    (taken : onInput e s = .next t) : KeepsMeasurement s t := by
  cases e with
  | rst c => exact absurd rfl (noReset c)
  | hostWrite n v =>
    obtain ⟨_, _, _, _, written⟩ := hostWriteReg_cases n v s
    cases taken
    rw [written]
    exact ⟨rfl, rfl, rfl⟩
  | start =>
    injection taken with taken
    subst taken
    split
    · exact ⟨rfl, rfl, rfl⟩
    · exact keepsMeasurement_beginSelected s
  | clk n =>
    cases taken
    rcases clockCycles_cases n s with h' | h' | ⟨-, h'⟩ <;> rw [h']
    · exact ⟨rfl, rfl, rfl⟩
    · exact keepsMeasurement_waitOver s
    · exact ⟨rfl, rfl, rfl⟩
  | waitEnd => cases taken; exact keepsMeasurement_waitOver s
  | bus r =>
    rcases busAnswer_next taken with ⟨hp, done⟩ | ⟨-, done⟩
    · rcases writeDone_next done with ⟨-, rfl⟩ | ⟨_, -, none, returned⟩ | ⟨_, -, -, rfl⟩
      · exact keepsMeasurement_raise _ (Machine.record _ s)
      · refine (returnWords_measurement returned).resolve_right fun ⟨measuring, _⟩ => ?_
        have two : s.nresp = 2 := Measuring.nresp measuring (h.holdsIssued (by simp [hp]))
        rw [two] at none
        cases none
      · unfold Machine.beginSettle
        split <;> exact ⟨rfl, rfl, rfl⟩
    · rcases readDone_next done with ⟨-, rfl⟩ | ⟨_, -, -, rfl⟩
      · exact keepsMeasurement_raise _ (Machine.record _ s)
      · exact ⟨rfl, rfl, rfl⟩

/-- Settles O26: DECODE of a whole response hands its words to a measurement, and no other phase step does. -/
theorem lastMeasurementWriters : Obligations.LastMeasurementWriters := by
  intro s t h noReset ht
  rcases tick_next ht with ⟨-, rfl⟩ | ⟨hp, decoded⟩ | ⟨-, -, rfl⟩ | ⟨-, e, rest, hi, taken⟩
  · exact .inl ⟨rfl, rfl, rfl⟩
  · rcases decodePhase_next decoded with ⟨ws, good, returned⟩ | ⟨_, _, -, rfl⟩
    · refine (returnWords_measurement returned).imp_right fun ⟨measuring, lastv, eco2, tvoc⟩ => ?_
      obtain ⟨frame, count⟩ := decodeFrame_eq_ok_iff.1 good
      have two : s.nresp = 2 := Measuring.nresp measuring (h.holdsIssued (by simp [hp]))
      rw [two] at count
      obtain ⟨w0, w1, rfl⟩ := List.length_eq_two.1 count.symm
      exact ⟨hp, measuring.imp_left And.left, w0, w1, frame, lastv, eco2, tvoc⟩
    · exact .inl (keepsMeasurement_raise _ (Machine.afterCheck _ s))
  · exact .inl ⟨rfl, rfl, rfl⟩
  · exact .inl ((h.unread _ _ _ _ _ rest _).onInput_measurement (fun c he => noReset c rest (he ▸ hi)) taken)

end Sys2Proof.Machine
end

section
/-! PROOF. Host writes and `start` pulses do not reach a running operation: the sequencer commutes with a change of what
belongs to the host, so the run without the host's events is the same run. -/

namespace Sys2Proof.Machine
open Sys2Proof

/-- What the host changes while an operation runs (R14, R26), and the events still to come. -/
structure HostSide where
  opsel : BitVec 4
  arg0 : Word
  arg1 : Word
  hum : BitVec 32
  ovr : Bool
  inputs : List Input

/-- The host's side of a state replaced. -/
def withHost (m : HostSide) (s : State) : State :=
  { s with opsel := m.opsel, arg0 := m.arg0, arg1 := m.arg1, hum := m.hum, ovr := m.ovr, inputs := m.inputs }

/-- An outcome with its next state changed. -/
def mapNext (f : State → State) : Result → Result
  | .next s => .next (f s)
  | .fault r => .fault r
  | .refused r => .refused r

/-! ### The sequencer commutes with a change of the host's side -/

theorem returnInitialise_withHost (m : HostSide) (ws : List Word) (s : State) :
    returnInitialise ws (withHost m s) = withHost m (returnInitialise ws s) := by
  simp only [returnInitialise, apply_ite (withHost m)]
  rfl

theorem returnInitialiseBl_withHost (m : HostSide) (ws : List Word) (s : State) :
    returnInitialiseBl ws (withHost m s) = withHost m (returnInitialiseBl ws s) := by
  simp only [returnInitialiseBl, apply_ite (withHost m)]
  rfl

theorem returnWords_withHost (m : HostSide) (ws : List Word) (s : State) :
    returnWords ws (withHost m s) = mapNext (withHost m) (returnWords ws s) := by
  have op : (withHost m s).op = s.op := rfl
  unfold returnWords
  rw [op, returnInitialise_withHost, returnInitialiseBl_withHost]
  split <;> rfl

theorem beginSettle_withHost (m : HostSide) (s : State) : beginSettle (withHost m s) = withHost m (beginSettle s) := by
  simp only [beginSettle, apply_ite (withHost m)]
  rfl

theorem writeDone_withHost (m : HostSide) (r : BusResponse) (s : State) :
    writeDone r (withHost m s) = mapNext (withHost m) (writeDone r s) := by
  cases r with
  | fail => rfl
  | ok bytes =>
    by_cases none : s.nresp = 0
    · have none' : (withHost m s).nresp = 0 := none
      simp only [writeDone, if_pos none, if_pos none']
      exact returnWords_withHost m [] (record (.write _ _ true) s)
    · have none' : (withHost m s).nresp ≠ 0 := none
      simp only [writeDone, if_neg none, if_neg none', mapNext]
      exact congrArg Host.Outcome.next (beginSettle_withHost m (record (.write _ _ true) s))

theorem readDone_withHost (m : HostSide) (r : BusResponse) (s : State) :
    readDone r (withHost m s) = mapNext (withHost m) (readDone r s) := by
  cases r with
  | fail => rfl
  | ok bytes =>
    simp only [readDone, apply_ite (mapNext (withHost m))]
    rfl

theorem decodePhase_withHost (m : HostSide) (s : State) :
    decodePhase (withHost m s) = mapNext (withHost m) (decodePhase s) := by
  have frame : (withHost m s).rxbuf.take (withHost m s).rxlen.toNat = s.rxbuf.take s.rxlen.toNat := rfl
  have count : (withHost m s).nresp = s.nresp := rfl
  simp only [decodePhase, frame, count]
  split
  · exact returnWords_withHost m _ (afterCheck _ s)
  · rfl
  · rfl

theorem busAnswer_withHost (m : HostSide) (r : BusResponse) (s : State) :
    busAnswer r (withHost m s) = mapNext (withHost m) (busAnswer r s) := by
  have phase : (withHost m s).phase = s.phase := rfl
  simp only [busAnswer, phase, writeDone_withHost, readDone_withHost]
  split <;> rfl

theorem waitOver_withHost (m : HostSide) (s : State) : waitOver (withHost m s) = withHost m (waitOver s) := by
  have phase : (withHost m s).phase = s.phase := rfl
  simp only [waitOver, phase]
  split <;> rfl

theorem clockCycles_withHost (m : HostSide) (n : Nat) (s : State) :
    clockCycles n (withHost m s) = withHost m (clockCycles n s) := by
  simp only [clockCycles, waitOver_withHost, apply_ite (withHost m)]
  rfl

/-- R14, R25, R145: an event that is neither the host's nor a reset does the same, whatever the host's side is. -/
theorem onInput_withHost (m : HostSide) {e : Input} (noHost : e.isHostAccess = false) (noReset : ∀ c, e ≠ .rst c)
    (s : State) : onInput e (withHost m s) = mapNext (withHost m) (onInput e s) := by
  cases e with
  | hostWrite | start => cases noHost
  | rst c => exact absurd rfl (noReset c)
  | bus r => exact busAnswer_withHost m r s
  | clk n => exact congrArg Host.Outcome.next (clockCycles_withHost m n s)
  | waitEnd => exact congrArg Host.Outcome.next (waitOver_withHost m s)

/-! ### The run without the host's events -/

/-- The events that are not the host's. -/
def notHosts (inputs : List Input) : List Input := inputs.filter (fun e => !e.isHostAccess)

/-- `s` with the host's registers and OVR as in `r`, and without the host's events. -/
def unhosted (r s : State) : State := withHost ⟨r.opsel, r.arg0, r.arg1, r.hum, r.ovr, notHosts s.inputs⟩ s

theorem unhosted_hostWrite (r s : State) {n : Nat} {v : BitVec 32} {rest : List Input}
    (hi : s.inputs = .hostWrite n v :: rest) :
    unhosted r (hostWriteReg n v { s with inputs := rest }) = unhosted r s := by
  obtain ⟨_, _, _, _, written⟩ := hostWriteReg_cases n v { s with inputs := rest }
  rw [written, unhosted, unhosted, hi]
  rfl

theorem unhosted_start (r s : State) {rest : List Input} (hi : s.inputs = .start :: rest) :
    unhosted r (overrun { s with inputs := rest }) = unhosted r s := by
  rw [unhosted, unhosted, hi]
  rfl

/-- R26: a phase step of a running operation is, without the host's events, no step or the same step. -/
theorem tick_unhosted (r : State) {s t : State} (busy : s.busy = true) (noReset : ∀ e ∈ s.inputs, ∀ c, e ≠ .rst c)
    (h : tick s = .next t) : unhosted r t = unhosted r s ∨ tick (unhosted r s) = .next (unhosted r t) := by
  rcases tick_next h with ⟨hp, rfl⟩ | ⟨hp, decoded⟩ | ⟨-, -, rfl⟩ | ⟨hw, e, rest, hi, taken⟩
  · exact .inr (tick_build (s := unhosted r s) hp)
  · right
    rw [tick_decode (s := unhosted r s) hp, unhosted, decodePhase_withHost, decoded, unhosted,
      (BlockKeeps.of_decodePhase decoded).inputs]
    rfl
  · exact .inl rfl
  · cases noHost : e.isHostAccess with
    | false =>
      right
      have next : (unhosted r s).inputs = e :: notHosts rest := by simp [unhosted, withHost, notHosts, hi, noHost]
      have same := onInput_withHost ⟨r.opsel, r.arg0, r.arg1, r.hum, r.ovr, notHosts rest⟩ noHost
        (noReset e (by simp [hi])) { s with inputs := rest }
      have after : unhosted r t = withHost ⟨r.opsel, r.arg0, r.arg1, r.hum, r.ovr, notHosts rest⟩ t := by
        rw [unhosted, onInput_inputs taken]
      rw [taken] at same
      rw [tick_event (s := unhosted r s) hw next, after]
      exact same
    | true =>
      left
      cases e with
      | hostWrite n v =>
        cases taken
        exact unhosted_hostWrite r s hi
      | start =>
        have overruns : t = overrun { s with inputs := rest } := by
          injection taken with taken
          exact taken.symm.trans (if_pos busy)
        rw [overruns]
        exact unhosted_start r s hi
      | rst | bus | clk | waitEnd => cases noHost

/-! ### While an operation runs, BUSY is 1 -/

/-- BUSY is 1 outside IDLE. -/
def BusyIfRunning (s : State) : Prop := s.phase = .idle ∨ s.busy = true

theorem busy_of_returnWords {ws : List Word} {s t : State} (busy : s.busy = true)
    (h : returnWords ws s = .next t) : BusyIfRunning t := by
  rcases returnWords_next h with ⟨-, rfl⟩ | ⟨-, rfl⟩ | ⟨-, rfl⟩ | ⟨-, rfl⟩ | ⟨-, rfl⟩ | ⟨-, rfl⟩ | ⟨-, rfl⟩ | ⟨-, rfl⟩ |
    ⟨-, rfl⟩
  · rcases returnInitialise_cases ws s with ⟨-, h⟩ | ⟨-, -, h⟩ | ⟨-, -, -, h⟩ <;> simp [h, BusyIfRunning, busy]
  · unfold returnInitialiseBl
    split
    · exact .inr busy
    · exact .inl rfl
  all_goals exact .inl rfl

theorem busy_of_waitOver {s : State} (busy : s.busy = true) : BusyIfRunning (waitOver s) := by
  rcases waitOver_cases s with ⟨-, h⟩ | ⟨-, h⟩ | ⟨-, -, h⟩ <;> rw [h] <;> exact .inr busy

theorem busy_of_onInput {e : Input} {s t : State} (busy : s.busy = true) (h : onInput e s = .next t) :
    BusyIfRunning t := by
  cases e with
  | hostWrite n v =>
    obtain ⟨_, _, _, _, written⟩ := hostWriteReg_cases n v s
    cases h
    rw [written]
    exact .inr busy
  | start =>
    injection h with h
    rw [if_pos busy] at h
    exact .inr (h ▸ busy)
  | rst c => rcases resetBy_next h with rfl | ⟨_, _, _, -, -, -, rfl⟩ <;> exact .inl rfl
  | bus r =>
    rcases busAnswer_next h with ⟨-, done⟩ | ⟨-, done⟩
    · rcases writeDone_next done with ⟨-, rfl⟩ | ⟨_, -, -, returned⟩ | ⟨_, -, -, rfl⟩
      · exact .inl rfl
      · exact busy_of_returnWords (s := record _ s) busy returned
      · unfold beginSettle
        split <;> exact .inr busy
    · rcases readDone_next done with ⟨-, rfl⟩ | ⟨_, -, -, rfl⟩
      · exact .inl rfl
      · exact .inr busy
  | clk n =>
    cases h
    rcases clockCycles_cases n s with h | h | ⟨-, h⟩ <;> rw [h]
    · exact .inr busy
    · exact busy_of_waitOver busy
    · exact .inr busy
  | waitEnd => cases h; exact busy_of_waitOver busy

theorem busy_of_tick {s t : State} (busy : s.busy = true) (h : tick s = .next t) : BusyIfRunning t := by
  rcases tick_next h with ⟨-, rfl⟩ | ⟨-, decoded⟩ | ⟨-, -, rfl⟩ | ⟨-, e, rest, -, taken⟩
  · exact .inr busy
  · rcases decodePhase_next decoded with ⟨_, -, returned⟩ | ⟨_, _, -, rfl⟩
    · exact busy_of_returnWords (s := afterCheck _ s) busy returned
    · exact .inl rfl
  · exact .inr busy
  · exact busy_of_onInput (s := { s with inputs := rest }) busy taken

/-! ### Whole operations -/

/-- R26: without the host's events the run of an operation comes to the same states. -/
theorem Goes.unhosted (r : State) {s t : State} (h : Goes operationOver s t) (busy : BusyIfRunning s)
    (noReset : ∀ e ∈ s.inputs, ∀ c, e ≠ .rst c) : Goes operationOver (unhosted r s) (unhosted r t) := by
  induction h using Relation.ReflTransGen.head_induction_on with
  | refl => exact .refl
  | @head s u hstep _ ih =>
    obtain ⟨running, ticks⟩ := hstep
    have busy : s.busy = true := busy.resolve_left (by simpa [operationOver] using running)
    have next := ih (busy_of_tick busy ticks) fun e he => noReset e ((tick_inputs ticks).subset he)
    rcases tick_unhosted r busy noReset ticks with same | stepped
    · rwa [same] at next
    · exact .head ⟨running, stepped⟩ next

/-- R25: a host operation begins with its operands as they stand, and with BUSY set unless it ends at once. -/
structure BeginsOperation (begin : State → State) : Prop where
  inputs : ∀ s, (begin s).inputs = s.inputs
  busy : ∀ s, BusyIfRunning (begin s)
  host : ∀ s inputs, begin { s with inputs := inputs }
    = withHost ⟨s.opsel, s.arg0, s.arg1, s.hum, s.ovr, inputs⟩ (begin s)

theorem beginsOperation_setHumidity : BeginsOperation beginSetHumidity where
  inputs s := by unfold beginSetHumidity; split <;> rfl
  busy s := by
    unfold beginSetHumidity
    split
    · exact .inl rfl
    · exact .inr rfl
  host s inputs := by
    simp only [beginSetHumidity, apply_ite (withHost _)]
    rfl

theorem beginsOperation_of_mem {begin : State → State} (h : begin ∈ hostBegins) : BeginsOperation begin := by
  simp only [hostBegins, List.mem_cons, List.not_mem_nil, or_false] at h
  rcases h with rfl | rfl | rfl | rfl | rfl | rfl | rfl | rfl | rfl
  on_goal 9 => exact beginsOperation_setHumidity
  all_goals exact ⟨fun _ => rfl, fun _ => .inr rfl, fun _ _ => rfl⟩

/-- Settles O27: the operation begins the same, goes through the same states, and comes to rest in the same one. -/
theorem runningOperationIgnoresHost : Obligations.RunningOperationIgnoresHost := by
  intro i s t host hb noReset h
  obtain ⟨begin, mem, meaning⟩ := exec_hostOp host
  have begins := beginsOperation_of_mem mem
  rw [meaning, startOperation_of_not_busy hb] at h
  obtain ⟨goes, halted⟩ := goes_of_run (work_le_enough _) h
  refine ⟨unhosted s t, ?_, rfl⟩
  have begun : begin { s with inputs := notHosts s.inputs } = unhosted s (begin s) := by
    rw [begins.host, unhosted, begins.inputs]
  have rests : atRest (unhosted s t) :=
    (atRest_of_halted halted).imp_right fun ⟨noEvent, phase⟩ => ⟨by simp [unhosted, withHost, noEvent, notHosts], phase⟩
  rw [meaning, startOperation_of_not_busy (by exact hb)]
  refine run_of_goes ?_ (halted_of_atRest rests) (work_le_enough _)
  exact begun ▸ goes.unhosted s (begins.busy s) (by rw [begins.inputs]; exact noReset)

end Sys2Proof.Machine
end

section
/-! PROOF. One EXECUTE, from BUILD to the return of its words or to its error, in the terms of the statements about
operations: what a command leaves when it is written, answered, or fails. -/

namespace Sys2Proof.Machine
open Sys2Proof

/-! ### The phases of an EXECUTE -/

/-- A run up to `stop` does not end inside an EXECUTE. -/
def RunsExecute (stop : State → Bool) : Prop :=
  ∀ t : State, t.phase = .write ∨ t.phase = .settle ∨ t.phase = .read ∨ t.phase = .decode → stop t = false

theorem runsExecute_operationOver : RunsExecute operationOver := by
  intro t ht
  rcases ht with h | h | h | h <;> simp [operationOver, h]

theorem runsExecute_executeOver : RunsExecute executeOver := by
  intro t ht
  rcases ht with h | h | h | h <;> simp [executeOver, h]

/-- R102: DECODE of a frame of words hands them to the operation. -/
theorem decodePhase_of_words {s : State} {ws : List Word} (frame : s.rxbuf.take s.rxlen.toNat = encodeFrame ws)
    (count : ws.length = s.nresp.toNat) : decodePhase s = returnWords ws (afterCheck (encodeFrame ws) s) := by
  have good : decodeFrame (encodeFrame ws) s.nresp.toNat = .ok ws := decodeFrame_eq_ok_iff.2 ⟨rfl, count.symm⟩
  simp only [decodePhase, frame, good]

/-- R89, R106: DECODE of a frame with a bad block ends with the first one's bytes. -/
theorem decodePhase_of_bad {s : State} {good : List Word} {b0 b1 c : Byte} {after : List Byte}
    (frame : s.rxbuf.take s.rxlen.toNat = encodeFrame good ++ b0 :: b1 :: c :: after) (bad : verify b0 b1 c = false)
    (len : (encodeFrame good ++ b0 :: b1 :: c :: after).length = 3 * s.nresp.toNat) :
    decodePhase s = .next (raise (.invalidChecksum (wordOf b0 b1) c)
      (afterCheck (encodeFrame good ++ b0 :: b1 :: c :: after) s)) := by
  simp only [decodePhase, frame, decodeFrame_firstBad good bad len]

/-- R92: of a frame of words the last block is the last that DECODE looks at. -/
theorem lastExamined_encodeFrame (ws : List Word) : lastExamined (encodeFrame ws) = ws.length - 1 := by
  induction ws with
  | nil => rfl
  | cons w ws ih =>
    cases ws with
    | nil => simp [lastExamined]
    | cons v vs =>
      rw [encodeFrame_cons, lastExamined, ih, if_pos (by simp)]
      rfl

/-- R92: else it is the first bad one. -/
theorem lastExamined_firstBad (good : List Word) {b0 b1 c : Byte} (after : List Byte) (bad : verify b0 b1 c = false) :
    lastExamined (encodeFrame good ++ b0 :: b1 :: c :: after) = good.length := by
  induction good with
  | nil => simp [lastExamined, bad]
  | cons w ws ih => simp [lastExamined, ih]

/-- R28: CRC after DECODE of a frame of words (log 15). -/
theorem crcAfterDecode_encodeFrame (ws : List Word) (a : Byte) :
    crcAfterDecode (encodeFrame ws) a = (ws.getLast?.map wordChecksum).getD a := by
  induction ws generalizing a with
  | nil => rfl
  | cons w ws ih =>
    rw [encodeFrame_cons, crcAfterDecode, if_pos (verify_wordChecksum w), ih]
    cases ws <;> rfl

theorem crcAfterDecode_firstBad (good : List Word) {b0 b1 c : Byte} (after : List Byte) (bad : verify b0 b1 c = false)
    (a : Byte) : crcAfterDecode (encodeFrame good ++ b0 :: b1 :: c :: after) a = checksum b0 b1 := by
  induction good generalizing a with
  | nil => simp [crcAfterDecode, bad]
  | cons w ws ih => simp [crcAfterDecode, ih]

/-- R97, R105: the command in the working registers of `s` has been written, with `ok` or without. -/
def wrote (ok : Bool) (s : State) : State :=
  { buildPhase s with trace := s.trace ++ [.write Config.periphAddr (commandBytes s) ok] }

/-- R100: and the settle wait is over. -/
def settled (s : State) : State :=
  { buildPhase s with
    timer := 0, phase := .read
    trace := s.trace ++ [.write Config.periphAddr (commandBytes s) true, .wait s.settleMs.toNat] }

/-- R101: and the read brought `frame`. -/
def responded (frame : List Byte) (s : State) : State :=
  receive frame { buildPhase s with
    timer := 0
    trace := s.trace ++ [.write Config.periphAddr (commandBytes s) true, .wait s.settleMs.toNat,
      .read Config.periphAddr (3 * s.nresp.toNat) (some frame)] }

section
variable {stop : State → Bool} {s : State} {rest : List Input} {bytes : List Byte}

/-- R107: a failed write ends the EXECUTE with IO. -/
theorem goes_write_fails (hstop : RunsExecute stop) (hi : s.inputs = .bus .fail :: rest) :
    Goes stop (buildPhase s) (raise (.io .write) { wrote false s with inputs := rest }) := by
  refine .step (hstop _ (.inl rfl)) ((tick_write_fail (s := buildPhase s) rfl hi).trans ?_)
  rw [buildPhase_sent]
  rfl

/-- R98, R99: a successful write of a command with no response returns to the operation. -/
theorem goes_write_returns (hstop : RunsExecute stop) (hi : s.inputs = .bus (.ok bytes) :: rest) (hn : s.nresp = 0)
    {t : State} (returns : returnWords [] { wrote true s with inputs := rest } = .next t) :
    Goes stop (buildPhase s) t := by
  refine .step (hstop _ (.inl rfl)) ((tick_write_ok_noResponse (s := buildPhase s) rfl hi hn).trans ?_)
  rw [buildPhase_sent]
  exact returns

/-- R98, R100: a successful write of a command with a response, and the settle wait. -/
theorem goes_settled (hstop : RunsExecute stop) (hi : s.inputs = .bus (.ok bytes) :: .waitEnd :: rest)
    (hn : s.nresp ≠ 0) (hs : s.settleMs ≠ 0) : Goes stop (buildPhase s) { settled s with inputs := rest } := by
  refine Goes.trans (.step (hstop _ (.inl rfl)) (tick_write_ok (s := buildPhase s) rfl hi hn hs)) ?_
  refine .step (hstop _ (.inr (.inl rfl))) ((tick_settle_end (rest := rest) rfl rfl).trans ?_)
  rw [buildPhase_sent]
  simp [settled]

/-- R107: a failed read ends the EXECUTE with IO. -/
theorem goes_read_fails (hstop : RunsExecute stop)
    (hi : s.inputs = .bus (.ok bytes) :: .waitEnd :: .bus .fail :: rest) (hn : s.nresp ≠ 0) (hs : s.settleMs ≠ 0) :
    Goes stop (buildPhase s) (raise (.io .read) { settled s with
      inputs := rest
      trace := (settled s).trace ++ [.read Config.periphAddr (3 * s.nresp.toNat) none] }) :=
  (goes_settled hstop hi hn hs).trans (.step (hstop _ (.inr (.inr (.inl rfl)))) (tick_read_fail rfl rfl))

/-- R101: a successful read brings the block to DECODE. -/
theorem goes_responded (hstop : RunsExecute stop) {frame : List Byte}
    (hi : s.inputs = .bus (.ok bytes) :: .waitEnd :: .bus (.ok frame) :: rest) (hn : s.nresp ≠ 0) (hs : s.settleMs ≠ 0)
    (len : frame.length = 3 * s.nresp.toNat) :
    Goes stop (buildPhase s) { responded frame s with inputs := rest } := by
  refine (goes_settled hstop hi hn hs).trans
    (.step (hstop _ (.inr (.inr (.inl rfl)))) ((tick_read_ok (rest := rest) rfl rfl (by exact len)).trans ?_))
  simp [responded, settled, receive]

/-- R101: what DECODE looks at is the frame that was read. -/
theorem responded_frame {frame : List Byte} (len : frame.length = 3 * s.nresp.toNat) :
    (responded frame s).rxbuf.take (responded frame s).rxlen.toNat = frame := by
  have small := s.nresp.isLt
  rw [responded, receive_rxlen, BitVec.toNat_ofNat, Nat.mod_eq_of_lt (by omega)]
  exact overwrite_take _ _

/-- R102: a response of words goes to the operation. -/
theorem goes_decoded (hstop : RunsExecute stop) {ws : List Word}
    (hi : s.inputs = .bus (.ok bytes) :: .waitEnd :: .bus (.ok (encodeFrame ws)) :: rest) (hn : s.nresp ≠ 0)
    (hs : s.settleMs ≠ 0) (count : ws.length = s.nresp.toNat) {t : State}
    (returns : returnWords ws (afterCheck (encodeFrame ws) { responded (encodeFrame ws) s with inputs := rest })
      = .next t) : Goes stop (buildPhase s) t := by
  have len : (encodeFrame ws).length = 3 * s.nresp.toNat := by rw [encodeFrame_length, count]
  refine (goes_responded hstop hi hn hs len).trans (.step (hstop _ (.inr (.inr (.inr rfl)))) ?_)
  exact (tick_decode rfl).trans ((decodePhase_of_words
    (s := { responded (encodeFrame ws) s with inputs := rest }) (responded_frame len) count).trans returns)

/-- R106: a response with a bad block ends the EXECUTE with InvalidChecksum. -/
theorem goes_corrupt (hstop : RunsExecute stop) {good : List Word} {b0 b1 c : Byte} {after : List Byte}
    (hi : s.inputs = .bus (.ok bytes) :: .waitEnd
      :: .bus (.ok (encodeFrame good ++ b0 :: b1 :: c :: after)) :: rest) (hn : s.nresp ≠ 0) (hs : s.settleMs ≠ 0)
    (bad : verify b0 b1 c = false) (len : (encodeFrame good ++ b0 :: b1 :: c :: after).length = 3 * s.nresp.toNat) :
    Goes stop (buildPhase s) (raise (.invalidChecksum (wordOf b0 b1) c)
      (afterCheck (encodeFrame good ++ b0 :: b1 :: c :: after)
        { responded (encodeFrame good ++ b0 :: b1 :: c :: after) s with inputs := rest })) :=
  (goes_responded hstop hi hn hs len).trans (.step (hstop _ (.inr (.inr (.inr rfl))))
    ((tick_decode rfl).trans (decodePhase_of_bad (responded_frame len) bad len)))

end

/-! ### Commands without parameters, in the terms of the statements -/

/-- R57, R97: what BUILD leaves of a command without parameters. -/
theorem buildPhase_loadCommand {cmd : WireCmd} (h : (cmdRow cmd).params = 0) (s : State) :
    buildPhase (loadCommand cmd s) = { writtenRow cmd s with trace := s.trace } := by
  cases cmd <;> first | rfl | cases h

theorem commandBytes_loadCommand {cmd : WireCmd} (h : (cmdRow cmd).params = 0) (s : State) :
    commandBytes (loadCommand cmd s) = opcodeBytes (cmdRow cmd).opcode := by
  cases cmd <;> first | rfl | cases h

section
variable {stop : State → Bool} {s : State} {rest : List Input} {bytes : List Byte} {cmd : WireCmd}

theorem execute_write_fails (hstop : RunsExecute stop) (h : (cmdRow cmd).params = 0)
    (hi : s.inputs = .bus .fail :: rest) :
    Goes stop (buildPhase (loadCommand cmd s)) (endedInError 3 s.errdata s.errcrc 0 rest
      { writtenRow cmd s with
        trace := s.trace ++ [.write Config.periphAddr (opcodeBytes (cmdRow cmd).opcode) false] }) := by
  have goes := goes_write_fails (s := loadCommand cmd s) hstop hi
  rw [wrote, buildPhase_loadCommand h, commandBytes_loadCommand h] at goes
  exact buildPhase_loadCommand h s ▸ goes

theorem execute_read_fails (hstop : RunsExecute stop) (h : (cmdRow cmd).words ≠ 0)
    (hi : s.inputs = .bus (.ok bytes) :: .waitEnd :: .bus .fail :: rest) :
    Goes stop (buildPhase (loadCommand cmd s)) (endedInError 3 s.errdata s.errcrc 1 rest
      { writtenRow cmd s with
        timer := 0
        trace := s.trace ++ [.write Config.periphAddr (opcodeBytes (cmdRow cmd).opcode) true,
          .wait (cmdRow cmd).settle.toNat, .read Config.periphAddr (readLength cmd) none] }) := by
  obtain ⟨settle, params⟩ := cmdRow_of_words h
  have goes := goes_read_fails (s := loadCommand cmd s) hstop hi h settle
  rw [settled, buildPhase_loadCommand params, commandBytes_loadCommand params] at goes
  simp only [List.append_assoc, List.cons_append, List.nil_append] at goes
  exact buildPhase_loadCommand params s ▸ goes

/-- R92, R104: the words of a response go to the operation, in the state that the statements call `answered`. -/
theorem execute_answered (hstop : RunsExecute stop) {ws : List Word} (count : ws.length = (cmdRow cmd).words.toNat)
    (nonempty : ws ≠ [])
    (hi : s.inputs = .bus (.ok bytes) :: .waitEnd :: .bus (.ok (encodeFrame ws)) :: rest) {t : State}
    (returns : returnWords ws { answered ws (writtenRow cmd s) with inputs := rest } = .next t) :
    Goes stop (buildPhase (loadCommand cmd s)) t := by
  have h : (cmdRow cmd).words ≠ 0 := by
    rintro none
    exact nonempty (List.length_eq_zero_iff.1 (by rw [count, none]; rfl))
  obtain ⟨settle, params⟩ := cmdRow_of_words h
  refine goes_decoded (s := loadCommand cmd s) hstop hi h settle count ?_
  rw [← returns]
  congr 1
  rw [afterCheck, responded, buildPhase_loadCommand params, commandBytes_loadCommand params,
    lastExamined_encodeFrame, crcAfterDecode_encodeFrame]
  obtain ⟨w, last⟩ : ∃ w, ws.getLast? = some w := ⟨_, List.getLast?_eq_getLast_of_ne_nil nonempty⟩
  simp [answered, receive, overwrite, writtenRow, written, last, ← count, List.getLastD_eq_getLast?]
  rfl

theorem execute_corrupt (hstop : RunsExecute stop) (h : (cmdRow cmd).words ≠ 0) {good : List Word} {b0 b1 c : Byte}
    {after : List Byte} (bad : verify b0 b1 c = false)
    (len : (encodeFrame good ++ b0 :: b1 :: c :: after).length = readLength cmd)
    (hi : s.inputs = .bus (.ok bytes) :: .waitEnd
      :: .bus (.ok (encodeFrame good ++ b0 :: b1 :: c :: after)) :: rest) :
    Goes stop (buildPhase (loadCommand cmd s)) (endedInError 1 (b0 ++ b1) c s.errval rest
      { writtenRow cmd s with
        timer := 0
        rxbuf := encodeFrame good ++ b0 :: b1 :: c :: after ++ s.rxbuf.drop (readLength cmd)
        rxlen := BitVec.ofNat 4 (readLength cmd)
        blk := BitVec.ofNat 2 good.length
        crc := checksum b0 b1
        trace := s.trace ++ [.write Config.periphAddr (opcodeBytes (cmdRow cmd).opcode) true,
          .wait (cmdRow cmd).settle.toNat,
          .read Config.periphAddr (readLength cmd) (some (encodeFrame good ++ b0 :: b1 :: c :: after))] }) := by
  obtain ⟨settle, params⟩ := cmdRow_of_words h
  have goes := goes_corrupt (s := loadCommand cmd s) hstop hi h settle bad len
  rw [afterCheck, responded, buildPhase_loadCommand params, commandBytes_loadCommand params,
    lastExamined_firstBad good after bad, crcAfterDecode_firstBad good after bad, receive, overwrite, len] at goes
  exact buildPhase_loadCommand params s ▸ goes

end

end Sys2Proof.Machine
end

section
/-! PROOF. What each wire command does inside its operation, for a run up to the end of the EXECUTE or of the operation;
and the results of the host operations with one command, and of the wire commands, from it. -/

namespace Sys2Proof.Machine
open Sys2Proof

/-! ### The operation that takes the words -/

theorem returnWords_initialise {s : State} (h : s.op = 0) (ws : List Word) :
    returnWords ws s = .next (returnInitialise ws s) := by rw [returnWords, h]; rfl
theorem returnWords_initialiseBl {s : State} (h : s.op = 1) (ws : List Word) :
    returnWords ws s = .next (returnInitialiseBl ws s) := by rw [returnWords, h]; rfl
theorem returnWords_getSerialId {s : State} (h : s.op = 2) (ws : List Word) :
    returnWords ws s = .next (finish 3 (storeResults ws s)) := by rw [returnWords, h]; rfl
theorem returnWords_getFeatureSet {s : State} (h : s.op = 3) (ws : List Word) :
    returnWords ws s = .next (finish 1 (storeResults ws s)) := by rw [returnWords, h]; rfl
theorem returnWords_measure {s : State} (h : s.op = 4) (ws : List Word) :
    returnWords ws s = .next (finish 2 (takeMeasurement ws s)) := by rw [returnWords, h]; rfl
theorem returnWords_getBaseline {s : State} (h : s.op = 5) (ws : List Word) :
    returnWords ws s = .next (finish 2 (storeResults ws s)) := by rw [returnWords, h]; rfl
theorem returnWords_setBaseline {s : State} (h : s.op = 6) (ws : List Word) :
    returnWords ws s = .next (finish 0 s) := by rw [returnWords, h]; rfl
theorem returnWords_getRawSignals {s : State} (h : s.op = 7) (ws : List Word) :
    returnWords ws s = .next (finish 2 (storeResults ws s)) := by rw [returnWords, h]; rfl
theorem returnWords_setHumidity {s : State} (h : s.op = 8) (ws : List Word) :
    returnWords ws s = .next (finish 0 s) := by rw [returnWords, h]; rfl

/-! ### Commands with parameters -/

theorem paramWords_setBaseline (p q : Word) (s : State) :
    paramWords (loadCommand .setBaseline { s with p0 := p, p1 := q }) = [p, q] := rfl

/-- R57, R121: the bytes of CMD_SET_BASELINE. -/
theorem commandBytes_setBaseline (p q : Word) (s : State) :
    commandBytes (loadCommand .setBaseline { s with p0 := p, p1 := q }) = 0x20 :: 0x1E :: encodeFrame [p, q] := by
  have opcode : hiByte (cmdRow .setBaseline).opcode = 0x20 ∧ loByte (cmdRow .setBaseline).opcode = 0x1E := by decide
  rw [commandBytes, paramWords_setBaseline, loadCommand_opc, opcode.1, opcode.2]

theorem wrote_setBaseline (ok : Bool) (p q : Word) (s : State) :
    wrote ok (loadCommand .setBaseline { s with p0 := p, p1 := q }) = { writtenBaseline p q s with
      trace := s.trace ++ [.write Config.periphAddr (0x20 :: 0x1E :: encodeFrame [p, q]) ok] } := by
  rw [wrote, buildPhase, commandBytes_setBaseline, paramWords_setBaseline, writtenBaseline, overwrite]
  rfl

theorem paramWords_setHumidity (p : Word) (s : State) :
    paramWords (loadCommand .setHumidity { s with p0 := p }) = [p] := rfl

/-- R57, R123: the bytes of CMD_SET_HUMIDITY. -/
theorem commandBytes_setHumidity (p : Word) (s : State) :
    commandBytes (loadCommand .setHumidity { s with p0 := p }) = 0x20 :: 0x61 :: encodeFrame [p] := by
  have opcode : hiByte (cmdRow .setHumidity).opcode = 0x20 ∧ loByte (cmdRow .setHumidity).opcode = 0x61 := by decide
  rw [commandBytes, paramWords_setHumidity, loadCommand_opc, opcode.1, opcode.2]

theorem wrote_setHumidity (ok : Bool) (p : Word) (s : State) :
    wrote ok (loadCommand .setHumidity { s with p0 := p }) = { writtenHumidity p s with
      trace := s.trace ++ [.write Config.periphAddr (0x20 :: 0x61 :: encodeFrame [p]) ok] } := by
  rw [wrote, buildPhase, commandBytes_setHumidity, paramWords_setHumidity, writtenHumidity, overwrite]
  rfl

/-! ### Each wire command, answered -/

section
variable {stop : State → Bool} {s : State} {rest : List Input} {bytes : List Byte} {w0 w1 w2 : Word}

theorem execute_serialId (hstop : RunsExecute stop) (op : s.op = 2) (hi : s.inputs = answers [w0, w1, w2] ++ rest) :
    Goes stop (buildPhase (loadCommand .serialId s)) (ended 3 rest
      { answered [w0, w1, w2] (written 0x3682 3 1 s) with res0 := w0, res1 := w1, res2 := w2 }) :=
  execute_answered hstop rfl (by simp) hi (returnWords_getSerialId (by exact op) _)

theorem execute_featureSet (hstop : RunsExecute stop) (op : s.op = 3) (hi : s.inputs = answers [w0] ++ rest) :
    Goes stop (buildPhase (loadCommand .featureSet s)) (ended 1 rest
      { answered [w0] (written 0x202F 1 2 s) with res0 := w0 }) :=
  execute_answered hstop rfl (by simp) hi (returnWords_getFeatureSet (by exact op) _)

theorem execute_getBaseline (hstop : RunsExecute stop) (op : s.op = 5) (hi : s.inputs = answers [w0, w1] ++ rest) :
    Goes stop (buildPhase (loadCommand .getBaseline s)) (ended 2 rest
      { answered [w0, w1] (written 0x2015 2 10 s) with res0 := w0, res1 := w1 }) :=
  execute_answered hstop rfl (by simp) hi (returnWords_getBaseline (by exact op) _)

theorem execute_rawSignals (hstop : RunsExecute stop) (op : s.op = 7) (hi : s.inputs = answers [w0, w1] ++ rest) :
    Goes stop (buildPhase (loadCommand .rawSignals s)) (ended 2 rest
      { answered [w0, w1] (written 0x2050 2 25 s) with res0 := w0, res1 := w1 }) :=
  execute_answered hstop rfl (by simp) hi (returnWords_getRawSignals (by exact op) _)

/-- R114, R118: the registers after a measurement brought the words `w0` and `w1`. -/
def measured (w0 w1 : Word) (s : State) : State :=
  { answered [w0, w1] (written 0x2008 2 22 s) with
    res0 := w0, res1 := w1, lastEco2 := w0, lastTvoc := w1, lastv := true }

theorem execute_measure (hstop : RunsExecute stop) (op : s.op = 4) (hi : s.inputs = answers [w0, w1] ++ rest) :
    Goes stop (buildPhase (loadCommand .measure s)) (ended 2 rest (measured w0 w1 s)) :=
  execute_answered hstop rfl (by simp) hi (returnWords_measure (by exact op) _)

/-- R114: what a poll does with its words: it is the last, or the wait before the next begins. -/
theorem returnInitialise_lastPoll {s : State} (poll : s.opc = 0x2008) (last : w0 ≠ 400 ∨ s.pollcnt = 19) :
    returnInitialise [w0, w1] s = finish 2 { takeMeasurement [w0, w1] s with pollcnt := s.pollcnt + 1 } := by
  have ends : ([w0, w1] : List Word).head? ≠ some 400 ∨ s.pollcnt + 1 = 20 := by
    rcases last with h | h
    · exact .inl (by simpa using h)
    · exact .inr (by rw [h]; rfl)
  rcases returnInitialise_cases [w0, w1] s with ⟨init, -⟩ | ⟨-, -, h⟩ | ⟨-, sentinel, more, -⟩
  · simp [poll] at init
  · exact h
  · exact absurd ends (not_or.2 ⟨not_not.2 sentinel, more⟩)

theorem returnInitialise_earlyPoll {s : State} (poll : s.opc = 0x2008) (sentinel : w0 = 400) (more : s.pollcnt ≠ 19) :
    returnInitialise [w0, w1] s
      = beginWait .pollwait 1000 { takeMeasurement [w0, w1] s with pollcnt := s.pollcnt + 1 } := by
  have left : s.pollcnt + 1 ≠ 20 := by
    intro h
    exact more ((BitVec.add_left_inj 1#5).1 h)
  rcases returnInitialise_cases [w0, w1] s with ⟨init, -⟩ | ⟨-, last, -⟩ | ⟨-, -, -, h⟩
  · simp [poll] at init
  · exact absurd last (not_or.2 ⟨by simp [sentinel], left⟩)
  · exact h

/-- R114: the poll that ends INITIALISE. -/
theorem execute_lastPoll (hstop : RunsExecute stop) (op : s.op = 0) (last : w0 ≠ 400 ∨ s.pollcnt = 19)
    (hi : s.inputs = answers [w0, w1] ++ rest) :
    Goes stop (buildPhase (loadCommand .measure s))
      (ended 2 rest { measured w0 w1 s with pollcnt := s.pollcnt + 1 }) := by
  refine execute_answered hstop rfl (by simp) hi ((returnWords_initialise (by exact op) _).trans ?_)
  rw [returnInitialise_lastPoll rfl (by exact last)]
  rfl

/-- R114: a poll after which INITIALISE waits for the next. -/
theorem execute_earlyPoll (hstop : RunsExecute stop) (op : s.op = 0) (sentinel : w0 = 400) (more : s.pollcnt ≠ 19)
    (hi : s.inputs = answers [w0, w1] ++ rest) :
    Goes stop (buildPhase (loadCommand .measure s)) { measured w0 w1 s with
      pollcnt := s.pollcnt + 1, phase := .pollwait, timer := 1000 * Config.ticksPerMs, inputs := rest } := by
  refine execute_answered hstop rfl (by simp) hi ((returnWords_initialise (by exact op) _).trans ?_)
  rw [returnInitialise_earlyPoll rfl sentinel (by exact more)]
  rfl

/-- R113, R114: CMD_INIT inside INITIALISE. -/
theorem execute_init (hstop : RunsExecute stop) (op : s.op = 0) (hi : s.inputs = .bus (.ok bytes) :: rest) :
    Goes stop (buildPhase (loadCommand .init s)) { written 0x2003 0 0 s with
      phase := .pollwait, timer := 1000 * Config.ticksPerMs, pollcnt := 0, inputs := rest } :=
  goes_write_returns (s := loadCommand .init s) hstop hi rfl (returnWords_initialise (by exact op) _)

/-- R113, R115: CMD_INIT inside INITIALISE_BL. -/
theorem execute_initBl (hstop : RunsExecute stop) (op : s.op = 1) (hi : s.inputs = .bus (.ok bytes) :: rest) :
    Goes stop (buildPhase (loadCommand .init s))
      (loadCommand .setBaseline { written 0x2003 0 0 s with inputs := rest }) :=
  goes_write_returns (s := loadCommand .init s) hstop hi rfl (returnWords_initialiseBl (by exact op) _)

/-- R115, R121: CMD_SET_BASELINE inside SET_BASELINE and inside INITIALISE_BL. -/
theorem execute_setBaseline (hstop : RunsExecute stop) (op : s.op = 6 ∨ s.op = 1)
    (hi : s.inputs = .bus (.ok bytes) :: rest) (p q : Word) :
    Goes stop (buildPhase (loadCommand .setBaseline { s with p0 := p, p1 := q }))
      (ended 0 rest (writtenBaseline p q s)) := by
  refine goes_write_returns (s := loadCommand .setBaseline { s with p0 := p, p1 := q }) hstop hi rfl ?_
  rw [wrote_setBaseline]
  rcases op with op | op
  · exact returnWords_setBaseline (by exact op) _
  · rw [returnWords_initialiseBl (by exact op), returnInitialiseBl, if_neg (by simp [writtenBaseline, cmdRow])]
    rfl

theorem execute_setBaseline_fails (hstop : RunsExecute stop) (hi : s.inputs = .bus .fail :: rest) (p q : Word) :
    Goes stop (buildPhase (loadCommand .setBaseline { s with p0 := p, p1 := q }))
      (endedInError 3 s.errdata s.errcrc 0 rest { writtenBaseline p q s with
        trace := s.trace ++ [.write Config.periphAddr (0x20 :: 0x1E :: encodeFrame [p, q]) false] }) := by
  have goes := goes_write_fails (s := loadCommand .setBaseline { s with p0 := p, p1 := q }) hstop hi
  rw [wrote_setBaseline] at goes
  exact goes

theorem execute_setHumidity (hstop : RunsExecute stop) (op : s.op = 8) (hi : s.inputs = .bus (.ok bytes) :: rest)
    (p : Word) : Goes stop (buildPhase (loadCommand .setHumidity { s with p0 := p }))
      (ended 0 rest (writtenHumidity p s)) := by
  refine goes_write_returns (s := loadCommand .setHumidity { s with p0 := p }) hstop hi rfl ?_
  rw [wrote_setHumidity]
  exact returnWords_setHumidity (by exact op) _

theorem execute_setHumidity_fails (hstop : RunsExecute stop) (hi : s.inputs = .bus .fail :: rest) (p : Word) :
    Goes stop (buildPhase (loadCommand .setHumidity { s with p0 := p }))
      (endedInError 3 s.errdata s.errcrc 0 rest { writtenHumidity p s with
        trace := s.trace ++ [.write Config.periphAddr (0x20 :: 0x61 :: encodeFrame [p]) false] }) := by
  have goes := goes_write_fails (s := loadCommand .setHumidity { s with p0 := p }) hstop hi
  rw [wrote_setHumidity] at goes
  exact goes

end

end Sys2Proof.Machine
end

section
/-! PROOF. The results and the errors of the wire commands and of the host operations that issue one command, or two
without a wait, from what each command does. -/

namespace Sys2Proof.Machine
open Sys2Proof

/-- R104: a loaded command is built next. -/
theorem goes_build {cmd : WireCmd} {s t : State} (h : Goes operationOver (buildPhase (loadCommand cmd s)) t) :
    Goes operationOver (loadCommand cmd s) t :=
  .trans (.step rfl (tick_build rfl)) h

/-- A host operation that begins with a command and has ended when the block is idle. -/
theorem runOperation_loadCommand {cmd : WireCmd} {s t : State}
    (h : Goes operationOver (buildPhase (loadCommand cmd s)) t) (idle : t.phase = .idle) :
    runOperation (loadCommand cmd s) = .next t :=
  runOperation_of_goes (goes_build h) idle

/-! ### Operations and commands that read a response -/

/-- R65, R116 to R122: a reading operation begins with its command, which has a response. -/
theorem exec_readingOp {i : Instr} {code : BitVec 4} {cmd : WireCmd} {s : State} (h : (i, code, cmd) ∈ readingOps)
    (hb : s.busy = false) :
    exec i s = runOperation (loadCommand cmd (accept code s)) ∧ (cmdRow cmd).words ≠ 0 := by
  simp only [readingOps, List.mem_cons, Prod.mk.injEq, List.not_mem_nil, or_false] at h
  rcases h with ⟨rfl, rfl, rfl⟩ | ⟨rfl, rfl, rfl⟩ | ⟨rfl, rfl, rfl⟩ | ⟨rfl, rfl, rfl⟩ | ⟨rfl, rfl, rfl⟩ <;>
    exact ⟨startOperation_of_not_busy hb, by decide⟩

/-- R59: a reading command is the EXECUTE of its row, which has a response. -/
theorem exec_readingCmd {i : Instr} {cmd : WireCmd} (s : State) (h : (i, cmd) ∈ readingCmds) :
    exec i s = runExecute (loadCommand cmd s) ∧ (cmdRow cmd).words ≠ 0 := by
  simp only [readingCmds, List.mem_cons, Prod.mk.injEq, List.not_mem_nil, or_false] at h
  rcases h with ⟨rfl, rfl⟩ | ⟨rfl, rfl⟩ | ⟨rfl, rfl⟩ | ⟨rfl, rfl⟩ | ⟨rfl, rfl⟩ <;> exact ⟨rfl, by decide⟩

/-- Settles O34: the operation is its one command, answered. -/
theorem getSerialIdResult : Obligations.GetSerialIdResult :=
  fun s _ _ _ _ hb hi => (startOperation_of_not_busy hb).trans
    (runOperation_loadCommand (execute_serialId (s := accept 2 s) runsExecute_operationOver rfl hi) rfl)

/-- Settles O35: the operation is its one command, answered. -/
theorem getFeatureSetResult : Obligations.GetFeatureSetResult :=
  fun s _ _ hb hi => (startOperation_of_not_busy hb).trans
    (runOperation_loadCommand (execute_featureSet (s := accept 3 s) runsExecute_operationOver rfl hi) rfl)

/-- Settles O36: the operation is its one command, answered. -/
theorem measureResult : Obligations.MeasureResult :=
  fun s _ _ _ hb hi => (startOperation_of_not_busy hb).trans
    (runOperation_loadCommand (execute_measure (s := accept 4 s) runsExecute_operationOver rfl hi) rfl)

/-- Settles O37: the operation is its one command, answered. -/
theorem getBaselineResult : Obligations.GetBaselineResult :=
  fun s _ _ _ hb hi => (startOperation_of_not_busy hb).trans
    (runOperation_loadCommand (execute_getBaseline (s := accept 5 s) runsExecute_operationOver rfl hi) rfl)

/-- Settles O38: the operation is its one command, answered. -/
theorem getRawSignalsResult : Obligations.GetRawSignalsResult :=
  fun s _ _ _ hb hi => (startOperation_of_not_busy hb).trans
    (runOperation_loadCommand (execute_rawSignals (s := accept 7 s) runsExecute_operationOver rfl hi) rfl)

/-- Settles O47: the failed read of the one command. -/
theorem readFails : Obligations.ReadFails := by
  intro i code cmd s bytes rest hmem hb hi
  obtain ⟨meaning, words⟩ := exec_readingOp hmem hb
  rw [meaning]
  exact runOperation_loadCommand (execute_read_fails (s := accept code s) runsExecute_operationOver words hi) rfl

/-- Settles O48: the corrupt response to the one command. -/
theorem corruptResponse : Obligations.CorruptResponse := by
  intro i code cmd s bytes good b0 b1 c after rest hmem hb bad len hi
  obtain ⟨meaning, words⟩ := exec_readingOp hmem hb
  rw [meaning]
  exact runOperation_loadCommand (execute_corrupt (s := accept code s) runsExecute_operationOver words bad len hi) rfl

/-- Settles O58: the EXECUTE of a reading command, its read failed. -/
theorem wireReadFails : Obligations.WireReadFails := by
  intro i cmd s bytes rest hmem hi
  obtain ⟨meaning, words⟩ := exec_readingCmd s hmem
  rw [meaning]
  exact runExecute_of_goes (execute_read_fails runsExecute_executeOver words hi) rfl

/-- Settles O59: the EXECUTE of a reading command, its response corrupt. -/
theorem wireCorruptResponse : Obligations.WireCorruptResponse := by
  intro i cmd s bytes good b0 b1 c after rest hmem bad len hi
  obtain ⟨meaning, words⟩ := exec_readingCmd s hmem
  rw [meaning]
  exact runExecute_of_goes (execute_corrupt runsExecute_executeOver words bad len hi) rfl

/-- Settles O52: each command, with its words taken by the operation in OP. -/
theorem cmdReadingResults : Obligations.CmdReadingResults :=
  ⟨fun _ _ _ _ _ op hi => runExecute_of_goes (execute_serialId runsExecute_executeOver op hi) rfl,
    fun _ _ _ op hi => runExecute_of_goes (execute_featureSet runsExecute_executeOver op hi) rfl,
    fun _ _ _ _ op hi => runExecute_of_goes (execute_getBaseline runsExecute_executeOver op hi) rfl,
    fun _ _ _ _ op hi => runExecute_of_goes (execute_rawSignals runsExecute_executeOver op hi) rfl⟩

/-- Settles O53: MEASURE takes the words and ends; INITIALISE ends at its last poll and else begins a wait. -/
theorem cmdMeasureResult : Obligations.CmdMeasureResult :=
  fun _ _ _ _ hi =>
    ⟨fun op => runExecute_of_goes (execute_measure runsExecute_executeOver op hi) rfl,
      fun op last => runExecute_of_goes (execute_lastPoll runsExecute_executeOver op last hi) rfl,
      fun op sentinel more => runExecute_of_goes (execute_earlyPoll runsExecute_executeOver op sentinel more hi) rfl⟩

/-! ### Commands that are only written -/

/-- Settles O49: INITIALISE waits before its first poll, INITIALISE_BL loads the Baseline command. -/
theorem cmdInitResult : Obligations.CmdInitResult :=
  ⟨fun _ _ _ op hi => runExecute_of_goes (execute_init runsExecute_executeOver op hi) rfl,
    fun _ _ _ op hi => runExecute_of_goes (execute_initBl runsExecute_executeOver op hi) rfl⟩

/-- R8, R57: the encoding of a well-formed CMD_SET_BASELINE is its opcode and the frame of its parameter words. -/
theorem encode_cmdSetBaseline {p q : Word} {c d : Byte} (h : (Instr.cmdSetBaseline p c q d).wellFormed = true) :
    encode (.cmdSetBaseline p c q d) = 0x20 :: 0x1E :: encodeFrame [p, q] := by
  obtain ⟨rfl, rfl⟩ : wordChecksum p = c ∧ wordChecksum q = d := by simpa [Instr.wellFormed] using h
  rfl

/-- R8, R57: the same for CMD_SET_HUMIDITY. -/
theorem encode_cmdSetHumidity {p : Word} {c : Byte} (h : (Instr.cmdSetHumidity p c).wellFormed = true) :
    encode (.cmdSetHumidity p c) = 0x20 :: 0x61 :: encodeFrame [p] := by
  obtain rfl : wordChecksum p = c := by simpa [Instr.wellFormed] using h
  rfl

/-- Settles O50: what is written is the encoding, and both operations end. -/
theorem cmdSetBaselineResult : Obligations.CmdSetBaselineResult := by
  intro s p q c d bytes rest op wf hi
  rw [encode_cmdSetBaseline wf]
  exact runExecute_of_goes (execute_setBaseline runsExecute_executeOver op hi p q) rfl

/-- Settles O51: what is written is the encoding, and SET_HUMIDITY ends. -/
theorem cmdSetHumidityResult : Obligations.CmdSetHumidityResult := by
  intro s p c bytes rest op wf hi
  rw [encode_cmdSetHumidity wf]
  exact runExecute_of_goes (execute_setHumidity runsExecute_executeOver op hi p) rfl

/-- Settles O39: the Baseline is latched tvoc first and written. -/
theorem setBaselineResult : Obligations.SetBaselineResult :=
  fun s _ _ hb hi => (startOperation_of_not_busy hb).trans
    (runOperation_loadCommand
      (execute_setBaseline (s := accept 6 s) runsExecute_operationOver (.inl rfl) hi s.arg1 s.arg0) rfl)

/-- R115: INITIALISE_BL up to its second command, with the Baseline latched. -/
theorem initialiseBl_second {s t : State} {bytes : List Byte} {rest : List Input} (hb : s.busy = false)
    (hi : s.inputs = .bus (.ok bytes) :: rest) (idle : t.phase = .idle)
    (second : Goes operationOver (buildPhase (loadCommand .setBaseline
      { written 0x2003 0 0 (accepted 1 s) with inputs := rest, p0 := s.arg1, p1 := s.arg0 })) t) :
    exec .initialiseBl s = .next t :=
  (startOperation_of_not_busy hb).trans (runOperation_loadCommand
    ((execute_initBl (s := loadBaseline (accept 1 s)) runsExecute_operationOver rfl hi).trans (goes_build second)) idle)

/-- Settles O40: CMD_INIT and then the Baseline. -/
theorem initialiseBlResult : Obligations.InitialiseBlResult :=
  fun s _ _ rest hb hi => initialiseBl_second hb hi rfl
    (execute_setBaseline (s := { written 0x2003 0 0 (accepted 1 s) with inputs := _ :: rest }) runsExecute_operationOver
      (.inr rfl) rfl s.arg1 s.arg0)

/-- R123: HUM from 0 to 0xFFFF is accepted. -/
theorem humidity_in_range {s : State} (low : 0 ≤ s.hum.toInt) (high : s.hum.toInt ≤ 0xFFFF) :
    beginSetHumidity s = loadCommand .setHumidity (loadHumidity (accept 8 s)) := by
  rw [beginSetHumidity, if_neg (by rw [humidityOutOfRange_iff]; omega)]

/-- Settles O41: an accepted HUM is latched and written. -/
theorem setHumidityResult : Obligations.SetHumidityResult := by
  intro s bytes rest hb low high hi
  refine (startOperation_of_not_busy hb).trans ?_
  rw [humidity_in_range low high]
  exact runOperation_loadCommand
    (execute_setHumidity (s := accept 8 s) runsExecute_operationOver rfl hi (s.hum.setWidth 16)) rfl

/-- Settles O42: the operation ends as it begins. -/
theorem setHumidityDomainError : Obligations.SetHumidityDomainError := by
  intro s hb outside
  refine (startOperation_of_not_busy hb).trans ?_
  rw [beginSetHumidity, if_pos ((humidityOutOfRange_iff _).2 outside)]
  exact run_stop _ rfl

/-! ### Failed writes -/

/-- Settles O45: the failed write of the first command, loaded with no parameter. -/
theorem firstWriteFails : Obligations.FirstWriteFails := by
  constructor
  · intro i code cmd s rest hmem hb hi
    have begins : exec i s = runOperation (loadCommand cmd (accept code s)) ∧ (cmdRow cmd).params = 0 := by
      rcases List.mem_cons.1 hmem with h | h
      · cases h
        exact ⟨startOperation_of_not_busy hb, rfl⟩
      · exact (exec_readingOp h hb).imp_right fun words => (cmdRow_of_words words).2
    rw [begins.1]
    exact runOperation_loadCommand (execute_write_fails (s := accept code s) runsExecute_operationOver begins.2 hi) rfl
  · intro s rest hb hi
    exact (startOperation_of_not_busy hb).trans (runOperation_loadCommand
      (execute_write_fails (s := loadBaseline (accept 1 s)) runsExecute_operationOver rfl hi) rfl)

/-- Settles O46: the failed write of the command with parameters, the one command or the second. -/
theorem parameterWriteFails : Obligations.ParameterWriteFails := by
  refine ⟨fun s rest hb hi => ?setBaseline, fun s rest hb low high hi => ?setHumidity,
    fun s bytes rest hb hi => ?initialiseBl⟩
  case setBaseline =>
    exact (startOperation_of_not_busy hb).trans (runOperation_loadCommand
      (execute_setBaseline_fails (s := accept 6 s) runsExecute_operationOver hi s.arg1 s.arg0) rfl)
  case setHumidity =>
    refine (startOperation_of_not_busy hb).trans ?_
    rw [humidity_in_range low high]
    exact runOperation_loadCommand
      (execute_setHumidity_fails (s := accept 8 s) runsExecute_operationOver hi (s.hum.setWidth 16)) rfl
  case initialiseBl =>
    have fails := execute_setBaseline_fails
      (s := { written 0x2003 0 0 (accepted 1 s) with inputs := .bus .fail :: rest }) runsExecute_operationOver rfl s.arg1 s.arg0
    simp only [written, List.append_assoc] at fails
    exact initialiseBl_second hb hi rfl fails

/-- Settles O54: the bytes BUILD makes of the row and its words are the encoding, and the write of them fails. -/
theorem wireWriteFails : Obligations.WireWriteFails := by
  intro i s rest wire wf hi
  obtain ⟨cmd, p, q, rfl, meaning⟩ := exec_wire wire wf s
  have encoding := encode_wireInstr (cmd := cmd) (s := loadCommand cmd { s with p0 := p, p1 := q })
    ⟨rfl, rfl, rfl, rfl⟩
  have fails := goes_write_fails (s := loadCommand cmd { s with p0 := p, p1 := q }) runsExecute_executeOver hi
  refine ⟨_, meaning.trans (runExecute_of_goes fails rfl), ?_⟩
  simp [wrote, errCode, directionCode, ← encoding]

end Sys2Proof.Machine
end

section
/-! PROOF. The warm-up of INITIALISE: the wait before a poll, the polls that read 400, one after another, and the poll
with which the operation ends, by its words or by an error. -/

namespace Sys2Proof.Machine
open Sys2Proof

/-- R114: INITIALISE waits before a poll, with `rest` to come. -/
def awaiting (rest : List Input) (s : State) : State :=
  { s with phase := .pollwait, timer := 1000 * Config.ticksPerMs, inputs := rest }

/-- R114: the wait before a poll is over. -/
def pollBegun (rest : List Input) (s : State) : State :=
  { s with timer := 0, inputs := rest, trace := s.trace ++ [.wait 1000] }

@[simp] theorem pollBegun_errdata (rest : List Input) (s : State) : (pollBegun rest s).errdata = s.errdata := rfl
@[simp] theorem pollBegun_errcrc (rest : List Input) (s : State) : (pollBegun rest s).errcrc = s.errcrc := rfl
@[simp] theorem pollBegun_errval (rest : List Input) (s : State) : (pollBegun rest s).errval = s.errval := rfl
@[simp] theorem pollBegun_trace (rest : List Input) (s : State) :
    (pollBegun rest s).trace = s.trace ++ [.wait 1000] := rfl

/-- What the polls `early` leave, one after another. -/
def afterPolls (early : List (Word × Word)) (s : State) : State := early.foldl (fun t w => polled w t) s

theorem afterPolls_cons (w : Word × Word) (early : List (Word × Word)) (s : State) :
    afterPolls (w :: early) s = afterPolls early (polled w s) := rfl

theorem afterPolls_concat (early : List (Word × Word)) (final : Word × Word) (s : State) :
    afterPolls (early ++ [final]) s = polled final (afterPolls early s) := by
  simp [afterPolls]

/-- INITIALISE waits before a poll: the operation in OP, the count of its polls, and no error recorded. -/
structure Warming (n : Nat) (s : State) : Prop where
  op : s.op = 0
  count : s.pollcnt.toNat = n
  noErrdata : s.errdata = 0
  noErrcrc : s.errcrc = 0
  noErrval : s.errval = 0

theorem Warming.polled {n : Nat} {s : State} (h : Warming n s) (w : Word × Word) (left : n < 20) :
    Warming (n + 1) (polled w s) :=
  { h with count := (toNat_pollcnt_succ (h.count ▸ left)).trans (by rw [h.count]) }

theorem Warming.afterPolls {n : Nat} {s : State} (h : Warming n s) {early : List (Word × Word)}
    (left : n + early.length ≤ 20) : Warming (n + early.length) (afterPolls early s) := by
  induction early generalizing n s with
  | nil => exact h
  | cons w early ih =>
    rw [List.length_cons] at left ⊢
    rw [afterPolls_cons, Nat.add_comm early.length, ← Nat.add_assoc]
    exact ih (h.polled w (by omega)) (by omega)

/-- R114: CMD_INIT written, INITIALISE begins to warm up. -/
theorem warming_init (s : State) : Warming 0 (written 0x2003 0 0 (accepted 0 s)) := ⟨rfl, rfl, rfl, rfl, rfl⟩

/-- R114: the end of the wait begins the poll. -/
theorem goes_pollBegun {s t : State} {rest : List Input}
    (h : Goes operationOver (buildPhase (loadCommand .measure (pollBegun rest s))) t) :
    Goes operationOver (awaiting (.waitEnd :: rest) s) t :=
  .trans (.step rfl (tick_pollwait_end rfl rfl)) (goes_build h)

/-- R114: a poll that reads 400, when polls are left, comes back to the wait. -/
theorem goes_earlyPoll {s : State} {n : Nat} (h : Warming n s) (left : n < 19) {w : Word × Word} (sentinel : w.1 = 400)
    (rest : List Input) :
    Goes operationOver (awaiting (.waitEnd :: answers [w.1, w.2] ++ rest) s) (awaiting rest (polled w s)) := by
  have more : s.pollcnt ≠ 19 := by
    intro h19
    rw [← h.count, h19] at left
    exact absurd left (by decide)
  exact goes_pollBegun
    (execute_earlyPoll (s := pollBegun (answers [w.1, w.2] ++ rest) s) runsExecute_operationOver h.op sentinel more rfl)

/-- R114: the polls that read 400, with one more left after them. -/
theorem goes_earlyPolls {s : State} {n : Nat} (h : Warming n s) {early : List (Word × Word)}
    (sentinels : ∀ w ∈ early, w.1 = 400) (left : n + early.length < 20) (rest : List Input) :
    Goes operationOver (awaiting (pollAnswers early ++ rest) s) (awaiting rest (afterPolls early s)) := by
  induction early generalizing n s with
  | nil => exact .refl
  | cons w early ih =>
    rw [List.length_cons] at left
    have first := goes_earlyPoll h (by omega) (sentinels w (by simp)) (pollAnswers early ++ rest)
    rw [← List.append_assoc] at first
    exact first.trans (ih (h.polled w (by omega)) (fun v hv => sentinels v (List.mem_cons_of_mem _ hv)) (by omega))

/-- R113, R114: INITIALISE up to the wait before the poll that follows `early`. -/
theorem initialise_of_goes {s t : State} {bytes : List Byte} {early : List (Word × Word)} {events : List Input}
    (hb : s.busy = false) (sentinels : ∀ w ∈ early, w.1 = 400) (left : early.length < 20)
    (hi : s.inputs = .bus (.ok bytes) :: pollAnswers early ++ events) (idle : t.phase = .idle)
    (h : Goes operationOver (awaiting events (afterPolls early (written 0x2003 0 0 (accepted 0 s)))) t) :
    exec .initialise s = .next t :=
  (startOperation_of_not_busy hb).trans (runOperation_loadCommand
    (((execute_init (s := accept 0 s) runsExecute_operationOver rfl hi).trans
      (goes_earlyPolls (warming_init s) sentinels (by omega) events)).trans h) idle)

theorem warming_afterPolls (s : State) {early : List (Word × Word)} (left : early.length < 20) :
    Warming early.length (afterPolls early (written 0x2003 0 0 (accepted 0 s))) := by
  simpa using (warming_init s).afterPolls (early := early) (by omega)

theorem pollAnswers_append (early late : List (Word × Word)) :
    pollAnswers (early ++ late) = pollAnswers early ++ pollAnswers late := by
  induction early with
  | nil => rfl
  | cons w early ih => simp [pollAnswers, ih]

/-- Settles O43: the early polls, and the one that ends the operation. -/
theorem initialiseResult : Obligations.InitialiseResult := by
  intro s bytes early final rest hb ⟨sentinels, left, last⟩ hi
  rw [pollAnswers_append, List.cons_append, List.append_assoc] at hi
  have warming := warming_afterPolls s left
  have ends : final.1 ≠ 400 ∨ (afterPolls early (written 0x2003 0 0 (accepted 0 s))).pollcnt = 19 :=
    last.imp_right fun h => BitVec.eq_of_toNat_eq (warming.count.trans h)
  refine initialise_of_goes (early := early) hb sentinels left hi rfl ?_
  rw [← afterPolls, afterPolls_concat]
  exact goes_pollBegun (execute_lastPoll (s := pollBegun (answers [final.1, final.2] ++ rest) _)
    runsExecute_operationOver warming.op ends rfl)

/-- R27, R57: the bytes of a poll's write. -/
theorem opcodeBytes_measure : opcodeBytes (cmdRow .measure).opcode = [0x20, 0x08] := by decide

/-- Settles O44: the early polls, and the one whose read fails. -/
theorem initialisePollReadFails : Obligations.InitialisePollReadFails := by
  intro s bytes bytes' early rest hb sentinels left hi before
  have warming : Warming early.length before := warming_afterPolls s left
  have fails := execute_read_fails (cmd := .measure)
    (s := pollBegun (.bus (.ok bytes') :: .waitEnd :: .bus .fail :: rest) before) runsExecute_operationOver (by decide)
    rfl
  rw [pollBegun_errdata, pollBegun_errcrc, warming.noErrdata, warming.noErrcrc, pollBegun_trace, List.append_assoc,
    opcodeBytes_measure] at fails
  exact initialise_of_goes hb sentinels left hi rfl (goes_pollBegun fails)

/-- Settles O56: the early polls, and the one whose write fails. -/
theorem initialisePollWriteFails : Obligations.InitialisePollWriteFails := by
  intro s bytes early rest hb sentinels left hi before
  have warming : Warming early.length before := warming_afterPolls s left
  have fails := execute_write_fails (cmd := .measure) (s := pollBegun (.bus .fail :: rest) before)
    runsExecute_operationOver rfl rfl
  rw [pollBegun_errdata, pollBegun_errcrc, warming.noErrdata, warming.noErrcrc, pollBegun_trace, List.append_assoc,
    opcodeBytes_measure] at fails
  exact initialise_of_goes hb sentinels left hi rfl (goes_pollBegun fails)

/-- Settles O57: the early polls, and the one whose response is corrupt. -/
theorem initialisePollCorrupt : Obligations.InitialisePollCorrupt := by
  intro s bytes bytes' early good b0 b1 c after rest hb sentinels left bad len hi before
  have warming : Warming early.length before := warming_afterPolls s left
  have fails := execute_corrupt (cmd := .measure)
    (s := pollBegun (.bus (.ok bytes') :: .waitEnd :: .bus (.ok (encodeFrame good ++ b0 :: b1 :: c :: after)) :: rest)
      before) runsExecute_operationOver (by decide) bad len rfl
  rw [pollBegun_errval, warming.noErrval, pollBegun_trace, List.append_assoc before.trace, opcodeBytes_measure] at fails
  exact initialise_of_goes hb sentinels left hi rfl (goes_pollBegun fails)

end Sys2Proof.Machine
end
